-- ==== Sys2Proof/Word.lean ====
section
/-!
DEFINITION. The plainest data of the vtk-rs232 CORE: bytes, byte sequences, the closed set of record keys and
record sets (00_scope R12, R17; 10_state R31; 30_encoding R69).
-/

namespace Sys2Proof

/-- `Byte` of 00_scope R17. -/
abbrev Byte := BitVec 8

/-- `Bytes` of 00_scope R17: a buffer, a payload, a frame, a record value. Offset 0 is the head, first on the wire. -/
abbrev Bytes := List (BitVec 8)

/-- A 16-bit quantity: the CRC register, a frame's length field (00_scope R13). -/
abbrev Word16 := BitVec 16

/-- `TlvKey` (30_encoding R69): the five members the source names, and the rest of its closed set, which the source
leaves at "etc." (91_not_in_source N1). DESIGN CHOICE, log entry 6, safe: `other n` stands for an unnamed member;
which members exist is said by KEYMAP. -/
inductive TlvKey where
  | messageName
  | operationNumber
  | amount
  | keepaliveInterval
  | qrPayload
  | other (n : Nat)
deriving DecidableEq, Repr

/-- "key ordinal" of 10_state R31: the slot of a key in a record set. -/
def TlvKey.ordinal : TlvKey → Nat
  | .messageName => 0
  | .operationNumber => 1
  | .amount => 2
  | .keepaliveInterval => 3
  | .qrPayload => 4
  | .other n => n + 5

/-- `RecordSet` (10_state R31): at most one value per key. DESIGN CHOICE, log entry 7, safe: the occupied slots in
rising ordinal, so that equal record sets are equal lists; `RecordSet.Ok` (WellFormed.lean) is the form. -/
abbrev RecordSet := List (TlvKey × Bytes)

end Sys2Proof
end

