-- ==== Sys2Proof/Config.lean ====
section
/-!
DEFINITION. The configuration parameters of 00_scope R10 and R11, constant for a run, the reference configuration, what
makes a configuration one of the spec's, and the one value the spec leaves unstated.
-/

namespace Sys2Proof

/-- KEYMAP (10_state R30): the recognised key bytes, in rising order, each with the key it denotes. -/
abbrev KeyMap := List (Byte × TlvKey)

/-- RX_CRC_CHECK (00_scope R11): `off` is legacy mode, `on` is hardened mode. -/
inductive RxCrcCheck where
  | off
  | on
deriving DecidableEq, Repr

/-- BAD_FIELD_POLICY (00_scope R11, 43_handshake R124). -/
inductive BadFieldPolicy where
  | abort
  | ignore
deriving DecidableEq, Repr

/-- The eight parameters ("Open parameters in one list", 92_eei_decisions). DESIGN CHOICE, log entry 2, safe: the
model carries them as a field of State that no step writes, so a statement about every state covers every
configuration. -/
structure Config where
  keymap : KeyMap
  rxCrcCheck : RxCrcCheck
  badFieldPolicy : BadFieldPolicy
  wAmt : Nat
  wOp : Nat
  wTime : Nat
  rxMax : Nat
  keepaliveInterval : Nat
deriving DecidableEq, Repr

/-- Default key codes, 30_encoding R70 (general knowledge in the spec itself: PRESUMED, log entry 5, unsafe). -/
def KeyMap.reference : KeyMap :=
  [(0x01#8, .messageName), (0x03#8, .operationNumber), (0x04#8, .amount), (0x05#8, .keepaliveInterval),
   (0x0A#8, .qrPayload)]

/-- The reference values and defaults of 00_scope R10 and R11. -/
def Config.reference : Config where
  keymap := KeyMap.reference
  rxCrcCheck := .off
  badFieldPolicy := .abort
  wAmt := 32
  wOp := 32
  wTime := 64
  rxMax := 512
  keepaliveInterval := 270

/-- "partial injection from byte 0x01..0xFF to the closed set TlvKey" (00_scope R11; 41_tlv R100): codes rise, so no
code stands twice; no key stands twice; 0x00 denotes no key; the five named keys have codes. -/
abbrev KeyMap.Valid (m : KeyMap) : Prop :=
  m.Pairwise (fun a b => a.1.toNat < b.1.toNat) ∧
  (m.map Prod.snd).Nodup ∧
  (∀ e ∈ m, e.1 ≠ 0#8) ∧
  (∀ k ∈ [TlvKey.messageName, .operationNumber, .amount, .keepaliveInterval, .qrPayload], k ∈ m.map Prod.snd)

/-- A configuration of the spec: KEYMAP and the widths as 00_scope R11 types them. No operation tests it: statements
that need it carry it as a premise (DESIGN CHOICE, log entry 11, safe). -/
def Config.check (c : Config) : Bool :=
  decide (KeyMap.Valid c.keymap ∧ 0 < c.wAmt ∧ 0 < c.wOp ∧ 0 < c.wTime)

/-- `Config.check` holds. -/
abbrev Config.Valid (c : Config) : Prop := c.check = true

/-- A FREE VALUE (DESIGN CHOICE, log entry 17, safe): what a message builder of 43_handshake R120 emits where a number
it carries has more than 255 digits, so that no record holds its text and `Frame` is not defined (42_frame R110). No
width up to 847 bits has such a number. -/
opaque Config.unstatedFrame (c : Config) (name : Bytes) (r : RecordSet) : Bytes

end Sys2Proof
end

