-- ==== Sys2Proof/Syntax.lean ====
section
/-!
DEFINITION. The instructions, one constructor per row of spec/opcode_table.json, and the form in which the host
presents them: a code word of one of the table's four formats, and the operand ports (30_encoding R75: "The code is
the only encoded part of an operation: operands and results are typed values at the transaction interface").
-/

namespace Sys2Proof

/-- One constructor per row of the opcode table, in the table's order. The thirteen operations of 30_encoding R75
carry their operands. The ten other rows are the wire items of R70, R74 and 20_memory R46; each carries what
accompanies the item when the unit that reads it meets it (DESIGN CHOICE, log entry 9, safe). -/
inductive Instr where
  | reset
  | crcInit
  | crcUpdate (b : Byte)
  | crcRead
  | crcCompute (bs : Bytes)
  | tlvEnc (r : RecordSet)
  | tlvDec (p : Bytes)
  | frmEnc (name : Bytes) (r : RecordSet)
  | frmDec (buf : Bytes)
  | hsBoot (now : Nat)
  | hsRx (buf : Bytes)
  | hsTick (now : Nat)
  | hsStatus
  | msgSta (r : RecordSet)
  | msgVrp (r : RecordSet)
  | msgFin (r : RecordSet)
  | msgIdl (r : RecordSet)
  | keyMessageName (rest : Bytes)
  | keyOperationNumber (rest : Bytes)
  | keyAmount (rest : Bytes)
  | keyKeepaliveInterval (rest : Bytes)
  | keyQrPayload (rest : Bytes)
  | frameHdr (len : Word16) (rest : Bytes)
deriving DecidableEq, Repr

/-- The four formats of the opcode table (30_encoding, opening): the word's bits are numbered from the least
significant, and a multi-byte word's first byte is its most significant (the table's notes). -/
inductive CodeWord where
  | cmd8 (code : BitVec 8)
  | msgName24 (name : BitVec 24)
  | tlvKey8 (key : BitVec 8)
  | frame40 (header : BitVec 40)
deriving DecidableEq, Repr

/-- The operand ports, by the operand names and types of 30_encoding R75: `b`; the byte sequences `bs`, `p`, `buf`
and what follows a wire item; `name`; `r`; `now`. An operation reads only its own. -/
structure Ports where
  b : Byte := 0#8
  bytes : Bytes := []
  name : Bytes := []
  records : RecordSet := []
  now : Nat := 0
deriving DecidableEq, Repr

/-- One operation as the host presents it (00_scope R8). -/
structure Request where
  word : CodeWord
  ports : Ports := {}
deriving DecidableEq, Repr

end Sys2Proof
end

