-- ==== Sys2Proof/Machine/State.lean ====
section
/-!
DEFINITION. The state of the block: the nine registers of 10_state R20, the configuration, and the transaction
interface as data (what the host has presented, what the block last returned).
-/

namespace Sys2Proof.Machine

/-- `stage` (10_state R22). -/
inductive Stage where
  | idle
  | started
  | reserved
  | finalized
deriving DecidableEq, Repr

/-- `fault_cause` (60_exceptions R152). -/
inductive FaultCause where
  | none
  | amountAbsent
  | amountUnparseable
  | opnumUnparseable
  | opCounterOverflow
deriving DecidableEq, Repr

/-- The status every operation returns (60_exceptions R150). -/
inductive Status where
  | ok
  | frameTooShort
  | checksumMismatch
  | badLength
  | valueTooLong
  | payloadTooLong
  | bufferTooLong
  | notBooted
  | alreadyBooted
  | faulted
  | aborted
  | ignoredNoAmount
  | ignoredBadValue
  | illegalCommand
deriving DecidableEq, Repr

/-- `event` of HS.RX (43_handshake R123). -/
inductive Event where
  | none
  | start
  | reserveConfirm
  | finalizeConfirm
deriving DecidableEq, Repr

/-- What HS.STATUS returns beside its status (44_system R141). -/
structure Registers where
  stage : Stage
  pendingAmount : Nat
  opCounter : Nat
  opSeeded : Bool
  booted : Bool
  lastIdl : Nat
  fault : Bool
  faultCause : FaultCause
deriving DecidableEq, Repr

/-- The typed result of an operation (the results column of 30_encoding R75): none, the `c` of the CRC operations,
the `p` or `f` of the encoders, the `r` of the decoders, the registers of HS.STATUS. -/
inductive Result where
  | none
  | crc (c : Word16)
  | bytes (p : Bytes)
  | records (r : RecordSet)
  | registers (g : Registers)
deriving DecidableEq, Repr

/-- What an operation returns (00_scope R16): a status, its result, the transmit list and the event. An operation
without one of the last three returns it empty. -/
structure Response where
  status : Status
  result : Result := .none
  tx : List Bytes := []
  event : Event := .none
deriving DecidableEq, Repr

/-- The state. `crc` to `faultCause` are the nine registers of 10_state R20. `cfg` is the configuration, constant for
a run (log entry 2). `pending` and `response` are the model's own: the transaction interface of 00_scope R8 and R16 as
data (log entry 1). `pendingAmount`, `opCounter` and `lastIdl` are naturals below 2^W_AMT, 2^W_OP, 2^W_TIME by the
invariant `State.Inv` (log entry 3). -/
structure State where
  crc : Word16
  stage : Stage
  pendingAmount : Nat
  opCounter : Nat
  opSeeded : Bool
  booted : Bool
  lastIdl : Nat
  fault : Bool
  faultCause : FaultCause
  cfg : Config
  pending : List Request
  response : Option Response
deriving DecidableEq, Repr

/-- Why the model stops with a fault: it never does, so there is no constructor. Every operation of the spec returns a
status (60_exceptions R150; 70_reset R191), and the block's own abort is a next state with `fault` set. -/
inductive Fault where
deriving DecidableEq, Repr

/-- Why the model refuses. -/
inductive Refusal where
  /-- Raised by `exec` for an instruction without a meaning; no arm of `exec` raises it in this model. Safe. -/
  | notModelled (mnemonic : String)
deriving DecidableEq, Repr

/-- The state after power-on under a configuration: the reset values of 10_state R36; nothing presented, nothing
returned yet (DESIGN CHOICE, log entry 1, safe). -/
def State.resetWith (c : Config) : State where
  crc := 0xFFFF#16
  stage := .idle
  pendingAmount := 0
  opCounter := 0
  opSeeded := false
  booted := false
  lastIdl := 0
  fault := false
  faultCause := .none
  cfg := c
  pending := []
  response := none

/-- The machine right after reset in the reference configuration (10_state R36; 00_scope R10, R11). -/
def State.reset : State := State.resetWith Config.reference

end Sys2Proof.Machine
end

