-- ==== Sys2Proof/Machine/Ops.lean ====
section
/-!
DEFINITION. The named operations: codes of the named values, byte order and buffer reads, record-set slots, KEYMAP
lookups, returning a response, the abort and the way out of it, and every write of a register.
-/

namespace Sys2Proof.Machine

/-! ### Codes -/

/-- The encoding of `stage` (10_state R22). -/
def Stage.code : Stage → BitVec 2
  | .idle => 0#2
  | .started => 1#2
  | .reserved => 2#2
  | .finalized => 3#2

/-- The encoding of `fault_cause` (60_exceptions R152). -/
def FaultCause.code : FaultCause → BitVec 3
  | .none => 0#3
  | .amountAbsent => 1#3
  | .amountUnparseable => 2#3
  | .opnumUnparseable => 3#3
  | .opCounterOverflow => 4#3

/-- The status codes (60_exceptions R150). -/
def Status.code : Status → BitVec 8
  | .ok => 0x00#8
  | .frameTooShort => 0x01#8
  | .checksumMismatch => 0x02#8
  | .badLength => 0x03#8
  | .valueTooLong => 0x04#8
  | .payloadTooLong => 0x05#8
  | .bufferTooLong => 0x06#8
  | .notBooted => 0x07#8
  | .alreadyBooted => 0x08#8
  | .faulted => 0x09#8
  | .aborted => 0x0A#8
  | .ignoredNoAmount => 0x0B#8
  | .ignoredBadValue => 0x0C#8
  | .illegalCommand => 0x0D#8

/-! ### Byte order and buffer reads -/

/-- `hi8` of 00_scope R13. -/
def hi8 (v : Word16) : Byte := v.extractLsb' 8 8

/-- `lo8` of 00_scope R13. -/
def lo8 (v : Word16) : Byte := v.extractLsb' 0 8

/-- `be16(hi, lo)` of 00_scope R13. -/
def be16 (hi lo : Byte) : Word16 := hi ++ lo

/-- A 16-bit field on the wire, big-endian (20_memory R42). -/
def be16Bytes (v : Word16) : Bytes := [hi8 v, lo8 v]

/-- `MemRead(buf, a, n)` of 00_scope R15, defined only where `a + n <= len(buf)`: a read outside the buffer cannot be
written (20_memory R45). -/
def memRead (buf : Bytes) (a n : Nat) (_ : a + n ≤ buf.length) : Bytes := (buf.drop a).take n

/-- The 16-bit field at an offset: two byte reads, the high byte at the lower offset (20_memory R44). -/
def be16At (buf : Bytes) (a : Nat) (h : a + 2 ≤ buf.length) : Word16 :=
  be16 (buf[a]'(by omega)) (buf[a + 1]'(by omega))

/-! ### Record sets and KEYMAP -/

/-- `r[k]` (00_scope R14); `none` is `k ∉ r`. -/
def recGet : RecordSet → TlvKey → Option Bytes
  | [], _ => none
  | (k', v) :: r, k => if k' = k then some v else recGet r k

/-- `r[k] <- v` (00_scope R14): the slot of `k` holds `v`, whatever it held before. -/
def recSet : RecordSet → TlvKey → Bytes → RecordSet
  | [], k, v => [(k, v)]
  | (k', v') :: r, k, v =>
    if k = k' then (k, v) :: r
    else if k.ordinal < k'.ordinal then (k, v) :: (k', v') :: r
    else (k', v') :: recSet r k v

/-- `key(c)` of 41_tlv R100: the key a byte denotes, `none` where KEYMAP does not recognise it. -/
def keyOf : KeyMap → Byte → Option TlvKey
  | [], _ => none
  | (c', k) :: m, c => if c' = c then some k else keyOf m c

/-- `code(k)` of 41_tlv R100. -/
def codeOf : KeyMap → TlvKey → Option Byte
  | [], _ => none
  | (c, k') :: m, k => if k' = k then some c else codeOf m k

/-- Some value of the set has more than 255 bytes: no value of type RecordSet, but one a host can present
(93_implementation_defined U10). -/
def anyTooLong (r : RecordSet) : Bool := r.any fun e => decide (255 < e.2.length)

/-! ### Returning -/

/-- `return (s, ...)` of 00_scope R16. -/
def State.respond (s : State) (r : Response) : State := { s with response := some r }

/-- `raise <Status>` of 00_scope R16: that status, no result, no change of state. -/
def State.raise (s : State) (st : Status) : State := s.respond { status := st }

/-! ### The abort and the way out -/

/-- `Abort(c)` of 00_scope R16, the block's one trap (60_exceptions R160): `fault` and `fault_cause` written, nothing
else, status ABORTED with an empty transmit list. -/
def State.abort (s : State) (c : FaultCause) : State :=
  { s with fault := true, faultCause := c, response := some { status := .aborted } }

/-- The register writes of RESET (44_system R140), the one exit from the fault state (60_exceptions R163); the
configuration and what the host has presented are no registers and stay. -/
def State.resetRegisters (s : State) : State :=
  { s with
    crc := 0xFFFF#16, stage := .idle, pendingAmount := 0, opCounter := 0, opSeeded := false, booted := false,
    lastIdl := 0, fault := false, faultCause := .none }

/-! ### Register writes -/

/-- A write of `crc` (40_crc R92, R93, R95). -/
def State.setCrc (s : State) (c : Word16) : State := { s with crc := c }

/-- The writes of HS.BOOT (43_handshake R122). -/
def State.boot (s : State) (now : Nat) : State := { s with booted := true, lastIdl := now }

/-- The write of a liveness send (43_handshake R131). -/
def State.setLastIdl (s : State) (now : Nat) : State := { s with lastIdl := now }

/-- Seeding (43_handshake R125). -/
def State.seed (s : State) (q : Nat) : State := { s with opCounter := q, opSeeded := true }

/-- The writes of the start event (43_handshake R126). -/
def State.start (s : State) (v : Nat) : State :=
  { s with stage := .started, pendingAmount := v, opCounter := s.opCounter + 1, opSeeded := true }

/-- The write of a reserve-confirm or finalize-confirm event (43_handshake R127, R128). -/
def State.setStage (s : State) (g : Stage) : State := { s with stage := g }

/-- The writes of the session's reset (43_handshake R129). -/
def State.endSession (s : State) : State := { s with stage := .idle, pendingAmount := 0 }

/-- A time operand as the W_TIME-bit port carries it (00_scope R11). DESIGN CHOICE, log entry 3, safe: a number of
more bits is no value of the operand's type; its low W_TIME bits arrive. -/
def State.timePort (s : State) (now : Nat) : Nat := now % 2 ^ s.cfg.wTime

/-- The registers as HS.STATUS returns them (44_system R141). -/
def State.registers (s : State) : Registers where
  stage := s.stage
  pendingAmount := s.pendingAmount
  opCounter := s.opCounter
  opSeeded := s.opSeeded
  booted := s.booted
  lastIdl := s.lastIdl
  fault := s.fault
  faultCause := s.faultCause

/-- The next operation the host has presented, and the state that has taken it. -/
def fetch (s : State) : Option (Request × State) :=
  match s.pending with
  | [] => none
  | q :: rest => some (q, { s with pending := rest })

end Sys2Proof.Machine
end

