-- ==== Sys2Proof/Machine/Operands.lean ====
section
/-!
DEFINITION. The forms an operand's bytes take: message names and decimal text (30_encoding R71 to R74), the numeric
field of a record set, and the bytes of a wire item's code word.
-/

namespace Sys2Proof.Machine

/-- "STA" (30_encoding R71). -/
def nameSTA : Bytes := [0x53#8, 0x54#8, 0x41#8]

/-- "VRP" (30_encoding R71). -/
def nameVRP : Bytes := [0x56#8, 0x52#8, 0x50#8]

/-- "FIN" (30_encoding R71). -/
def nameFIN : Bytes := [0x46#8, 0x49#8, 0x4E#8]

/-- "IDL" (30_encoding R71). -/
def nameIDL : Bytes := [0x49#8, 0x44#8, 0x4C#8]

/-- The ASCII code of a digit (30_encoding R71). -/
def digitByte (d : Nat) : Byte := BitVec.ofNat 8 (0x30 + d)

/-- The decimal digits of a number, least significant first; the fuel is no less than their count. -/
def digitsUp : Nat → Nat → Bytes
  | 0, _ => []
  | fuel + 1, v => if v < 10 then [digitByte v] else digitByte (v % 10) :: digitsUp fuel (v / 10)

/-- `dec(v)` (30_encoding R72): most significant digit first, no leading zeros, `dec(0) = "0"`. -/
def dec (v : Nat) : Bytes := (digitsUp (v + 1) v).reverse

/-- `Field` of 00_scope R17. -/
inductive Field where
  | absent
  | bad
  | val (v : Nat)
deriving DecidableEq, Repr

/-- The field is `Val v` for some `v`. -/
def isVal : Field → Bool
  | .val _ => true
  | _ => false

/-- A byte in 0x30..0x39. -/
def isDigit (b : Byte) : Bool := decide (0x30 ≤ b.toNat ∧ b.toNat ≤ 0x39)

/-- `v = v * 10 + digit`, in naturals (44_system R143). -/
def digitsValue (b : Bytes) : Nat := b.foldl (fun v d => v * 10 + (d.toNat - 0x30)) 0

/-- `parse_uint(b, W)` (30_encoding R73): one or more digits and nothing else, and a value below `2^W`. -/
def parseUint (b : Bytes) (w : Nat) : Field :=
  if b ≠ [] ∧ b.all isDigit ∧ digitsValue b < 2 ^ w then .val (digitsValue b) else .bad

/-- `field_uint(r, k, W)` (30_encoding R73). -/
def fieldUint (r : RecordSet) (k : TlvKey) (w : Nat) : Field :=
  match recGet r k with
  | none => .absent
  | some b => parseUint b w

/-- The three bytes of a message-name word, the first most significant. -/
def nameBytes (n : BitVec 24) : Bytes := [n.extractLsb' 16 8, n.extractLsb' 8 8, n.extractLsb' 0 8]

/-- The five bytes of a header word, the first most significant. -/
def headerBytes (h : BitVec 40) : Bytes :=
  [h.extractLsb' 32 8, h.extractLsb' 24 8, h.extractLsb' 16 8, h.extractLsb' 8 8, h.extractLsb' 0 8]

/-- The five header bytes of a frame with length field `len` (20_memory R46). -/
def frameHeader (len : Word16) : Bytes := [0x1F#8, hi8 len, lo8 len, 0x96#8, 0xFB#8]

end Sys2Proof.Machine
end

