-- ==== Sys2Proof/Machine/Flags.lean ====
section
/-!
DEFINITION. The conditions an operation tests and the statuses they give: the gates on `fault` and `booted`, the
abort tests of HS.RX and its informative statuses, each in the order 60_exceptions R155 fixes.
-/

namespace Sys2Proof.Machine

/-- `if fault = 1 then return FAULTED` (60_exceptions R161), then the rest. -/
def unlessFaulted (s : State) (rest : State) : State :=
  if s.fault = true then s.raise .faulted else rest

/-- The gate of HS.RX and HS.TICK (43_handshake R121). -/
def whenBooted (s : State) (rest : State) : State :=
  unlessFaulted s (if s.booted = true then rest else s.raise .notBooted)

/-- The gate of HS.BOOT (43_handshake R121). -/
def unlessBooted (s : State) (rest : State) : State :=
  unlessFaulted s (if s.booted = true then s.raise .alreadyBooted else rest)

/-- `name` matches "STA" or "VRP" or "FIN": byte equality (30_encoding R74; 43_handshake R123 line 5). -/
def isHandshakeName (name : Option Bytes) : Bool :=
  decide (name = some nameSTA ∨ name = some nameVRP ∨ name = some nameFIN)

/-- `opn` (43_handshake R123 line 6): examined only while `op_seeded = 0`. -/
def opnField (s : State) (r : RecordSet) : Field :=
  if s.opSeeded = true then .absent else fieldUint r .operationNumber s.cfg.wOp

/-- `amt` (43_handshake R123 line 7): examined only under a handshake name. -/
def amtField (s : State) (r : RecordSet) : Field :=
  if isHandshakeName (recGet r .messageName) = true then fieldUint r .amount s.cfg.wAmt else .absent

/-- `q if seed else op_counter` (43_handshake R123 lines 12 and 13). -/
def seededCounter (s : State) (opn : Field) : Nat :=
  match opn with
  | .val q => q
  | _ => s.opCounter

/-- The abort tests of 43_handshake R123 lines 9 to 13; the first that applies. -/
def abortCause (s : State) (name : Option Bytes) (opn amt : Field) : Option FaultCause :=
  if s.cfg.badFieldPolicy = .abort ∧ opn = .bad then some .opnumUnparseable
  else if s.cfg.badFieldPolicy = .abort ∧ isHandshakeName name = true ∧ amt = .bad then some .amountUnparseable
  else if s.cfg.badFieldPolicy = .abort ∧ isHandshakeName name = true ∧ amt = .absent then some .amountAbsent
  else if name = some nameSTA ∧ s.stage = .idle ∧ isVal amt = true ∧
      seededCounter s opn = 2 ^ s.cfg.wOp - 1 then some .opCounterOverflow
  else none

/-- `st` after 43_handshake R123 lines 8 to 11 under policy `ignore`: the last line that applies stands (R124). -/
def rxStatus (name : Option Bytes) (opn amt : Field) : Status :=
  if isHandshakeName name = true ∧ amt = .absent then .ignoredNoAmount
  else if isHandshakeName name = true ∧ amt = .bad then .ignoredBadValue
  else if opn = .bad then .ignoredBadValue
  else .ok

end Sys2Proof.Machine
end

