-- ==== Sys2Proof/Machine/System.lean ====
section
/-!
DEFINITION. The system operations (44_system): RESET, HS.STATUS, and the host's pseudo-operation HS.CYCLE.
-/

namespace Sys2Proof.Machine

/-- RESET, 44_system R140: never refused. -/
def execReset (s : State) : Host.Outcome State Fault Refusal :=
  .next (s.resetRegisters.respond { status := .ok })

/-- HS.STATUS, 44_system R141: never refused. -/
def execHsStatus (s : State) : Host.Outcome State Fault Refusal :=
  .next (s.respond { status := .ok, result := .registers s.registers })

/-- HS.CYCLE now buf? (44_system R142): the operations of one iteration of the host's loop, in order; no operation of
the block. The sends, the receive and the sleep are the host's. -/
def hsCycle (now : Nat) (buf : Option Bytes) : List Request :=
  { word := .cmd8 0x42#8, ports := { now := now } } ::
    match buf with
    | none => []
    | some b => [{ word := .cmd8 0x41#8, ports := { bytes := b } }]

end Sys2Proof.Machine
end

