-- ==== Sys2Proof/Decode.lean ====
section
/-!
DEFINITION. From a code word and the operand ports to an instruction, total, rejecting by name (30_encoding R75,
R76, R78 to R80), and back. Then the host's numeric view of the opcode table.
-/

namespace Sys2Proof

/-- Why a code word selects no row of the opcode table. None of these stops the machine: what the block does with
each is `Machine.unassigned`. -/
inductive DecodeError where
  /-- A command code not in the table of 30_encoding R75 (R80). -/
  | unassignedCommand (code : BitVec 8)
  /-- A message name that is none of the four of 30_encoding R74 (R78). -/
  | unmatchedName (name : BitVec 24)
  /-- A key byte that is none of the five default codes of 30_encoding R70 (R76). -/
  | otherKey (key : BitVec 8)
  /-- Five bytes that are no header of 20_memory R46 (R79). -/
  | otherHeader (header : BitVec 40)
deriving DecidableEq, Repr

/-- The command codes of 30_encoding R75. -/
def decodeCommand (code : BitVec 8) (p : Ports) : Except DecodeError Instr :=
  if code = 0x01#8 then .ok .reset
  else if code = 0x10#8 then .ok .crcInit
  else if code = 0x11#8 then .ok (.crcUpdate p.b)
  else if code = 0x12#8 then .ok .crcRead
  else if code = 0x13#8 then .ok (.crcCompute p.bytes)
  else if code = 0x20#8 then .ok (.tlvEnc p.records)
  else if code = 0x21#8 then .ok (.tlvDec p.bytes)
  else if code = 0x30#8 then .ok (.frmEnc p.name p.records)
  else if code = 0x31#8 then .ok (.frmDec p.bytes)
  else if code = 0x40#8 then .ok (.hsBoot p.now)
  else if code = 0x41#8 then .ok (.hsRx p.bytes)
  else if code = 0x42#8 then .ok (.hsTick p.now)
  else if code = 0x43#8 then .ok .hsStatus
  else .error (.unassignedCommand code)

/-- The message names of 30_encoding R74, three ASCII bytes (R71), the first most significant. -/
def decodeName (name : BitVec 24) (p : Ports) : Except DecodeError Instr :=
  if name = 0x535441#24 then .ok (.msgSta p.records)
  else if name = 0x565250#24 then .ok (.msgVrp p.records)
  else if name = 0x46494E#24 then .ok (.msgFin p.records)
  else if name = 0x49444C#24 then .ok (.msgIdl p.records)
  else .error (.unmatchedName name)

/-- The default key codes of 30_encoding R70. -/
def decodeKey (key : BitVec 8) (p : Ports) : Except DecodeError Instr :=
  if key = 0x01#8 then .ok (.keyMessageName p.bytes)
  else if key = 0x03#8 then .ok (.keyOperationNumber p.bytes)
  else if key = 0x04#8 then .ok (.keyAmount p.bytes)
  else if key = 0x05#8 then .ok (.keyKeepaliveInterval p.bytes)
  else if key = 0x0A#8 then .ok (.keyQrPayload p.bytes)
  else .error (.otherKey key)

/-- The frame header `1F LL LL 96 FB` (20_memory R46; mask 0xFF0000FFFF of the table). -/
def decodeHeader (header : BitVec 40) (p : Ports) : Except DecodeError Instr :=
  if header &&& 0xFF0000FFFF#40 = 0x1F000096FB#40 then .ok (.frameHdr (header.extractLsb' 16 16) p.bytes)
  else .error (.otherHeader header)

/-- The instruction a request presents. -/
def decode (q : Request) : Except DecodeError Instr :=
  match q.word with
  | .cmd8 code => decodeCommand code q.ports
  | .msgName24 name => decodeName name q.ports
  | .tlvKey8 key => decodeKey key q.ports
  | .frame40 header => decodeHeader header q.ports

/-- The header word of a length field: start marker, length, magic (20_memory R46). -/
def headerWord (len : Word16) : BitVec 40 :=
  0x1F#8 ++ len ++ 0x96FB#16

/-- The request that presents an instruction, from the same tables. -/
def encode : Instr → Request
  | .reset => { word := .cmd8 0x01#8 }
  | .crcInit => { word := .cmd8 0x10#8 }
  | .crcUpdate b => { word := .cmd8 0x11#8, ports := { b := b } }
  | .crcRead => { word := .cmd8 0x12#8 }
  | .crcCompute bs => { word := .cmd8 0x13#8, ports := { bytes := bs } }
  | .tlvEnc r => { word := .cmd8 0x20#8, ports := { records := r } }
  | .tlvDec p => { word := .cmd8 0x21#8, ports := { bytes := p } }
  | .frmEnc name r => { word := .cmd8 0x30#8, ports := { name := name, records := r } }
  | .frmDec buf => { word := .cmd8 0x31#8, ports := { bytes := buf } }
  | .hsBoot now => { word := .cmd8 0x40#8, ports := { now := now } }
  | .hsRx buf => { word := .cmd8 0x41#8, ports := { bytes := buf } }
  | .hsTick now => { word := .cmd8 0x42#8, ports := { now := now } }
  | .hsStatus => { word := .cmd8 0x43#8 }
  | .msgSta r => { word := .msgName24 0x535441#24, ports := { records := r } }
  | .msgVrp r => { word := .msgName24 0x565250#24, ports := { records := r } }
  | .msgFin r => { word := .msgName24 0x46494E#24, ports := { records := r } }
  | .msgIdl r => { word := .msgName24 0x49444C#24, ports := { records := r } }
  | .keyMessageName rest => { word := .tlvKey8 0x01#8, ports := { bytes := rest } }
  | .keyOperationNumber rest => { word := .tlvKey8 0x03#8, ports := { bytes := rest } }
  | .keyAmount rest => { word := .tlvKey8 0x04#8, ports := { bytes := rest } }
  | .keyKeepaliveInterval rest => { word := .tlvKey8 0x05#8, ports := { bytes := rest } }
  | .keyQrPayload rest => { word := .tlvKey8 0x0A#8, ports := { bytes := rest } }
  | .frameHdr len rest => { word := .frame40 (headerWord len), ports := { bytes := rest } }

/-- The request of a table word given as a number, every operand port empty or zero. DESIGN CHOICE, log entry 10,
safe: an 8-bit word is a command code where it is one (01 is RESET), else a key code where it is one, else an
unassigned command code; 24 bits are a message name and 40 bits a frame header, first byte most significant. -/
def tableRequest (nbits w : Nat) : Option Request :=
  if nbits = 8 then
    match decodeCommand (BitVec.ofNat 8 w) {}, decodeKey (BitVec.ofNat 8 w) {} with
    | .error _, .ok _ => some { word := .tlvKey8 (BitVec.ofNat 8 w) }
    | _, _ => some { word := .cmd8 (BitVec.ofNat 8 w) }
  else if nbits = 24 then some { word := .msgName24 (BitVec.ofNat 24 w) }
  else if nbits = 40 then some { word := .frame40 (BitVec.ofNat 40 w) }
  else none

/-- The instruction the decoder reads from a word numbered as the opcode table numbers it. -/
def decodeTableWord (nbits w : Nat) : Option Instr :=
  match tableRequest nbits w with
  | some q => (decode q).toOption
  | none => none

/-- A row of the opcode table: the word's fixed bits, read in the row's format. -/
structure TableRow where
  mnemonic : String
  format : String
  mask : Nat
  pattern : Nat
deriving DecidableEq, Repr

/-- spec/opcode_table.json: mnemonic, format, mask and match of every row. -/
def opcodeTable : List TableRow :=
  [⟨"RESET", "CMD8", 0xFF, 0x01⟩, ⟨"CRC.INIT", "CMD8", 0xFF, 0x10⟩, ⟨"CRC.UPDATE", "CMD8", 0xFF, 0x11⟩,
   ⟨"CRC.READ", "CMD8", 0xFF, 0x12⟩, ⟨"CRC.COMPUTE", "CMD8", 0xFF, 0x13⟩, ⟨"TLV.ENC", "CMD8", 0xFF, 0x20⟩,
   ⟨"TLV.DEC", "CMD8", 0xFF, 0x21⟩, ⟨"FRM.ENC", "CMD8", 0xFF, 0x30⟩, ⟨"FRM.DEC", "CMD8", 0xFF, 0x31⟩,
   ⟨"HS.BOOT", "CMD8", 0xFF, 0x40⟩, ⟨"HS.RX", "CMD8", 0xFF, 0x41⟩, ⟨"HS.TICK", "CMD8", 0xFF, 0x42⟩,
   ⟨"HS.STATUS", "CMD8", 0xFF, 0x43⟩] ++
  [⟨"MSG.STA", "MSGNAME24", 0xFFFFFF, 0x535441⟩, ⟨"MSG.VRP", "MSGNAME24", 0xFFFFFF, 0x565250⟩,
   ⟨"MSG.FIN", "MSGNAME24", 0xFFFFFF, 0x46494E⟩, ⟨"MSG.IDL", "MSGNAME24", 0xFFFFFF, 0x49444C⟩] ++
  [⟨"KEY.MessageName", "TLVKEY8", 0xFF, 0x01⟩, ⟨"KEY.OperationNumber", "TLVKEY8", 0xFF, 0x03⟩,
   ⟨"KEY.Amount", "TLVKEY8", 0xFF, 0x04⟩, ⟨"KEY.KeepaliveInterval", "TLVKEY8", 0xFF, 0x05⟩,
   ⟨"KEY.QrPayload", "TLVKEY8", 0xFF, 0x0A⟩, ⟨"FRAME.HDR", "FRAME40", 0xFF0000FFFF, 0x1F000096FB⟩]

/-- The mnemonic of an instruction, as the opcode table spells it. -/
def mnemonicOf : Instr → String
  | .reset => "RESET"
  | .crcInit => "CRC.INIT"
  | .crcUpdate _ => "CRC.UPDATE"
  | .crcRead => "CRC.READ"
  | .crcCompute _ => "CRC.COMPUTE"
  | .tlvEnc _ => "TLV.ENC"
  | .tlvDec _ => "TLV.DEC"
  | .frmEnc _ _ => "FRM.ENC"
  | .frmDec _ => "FRM.DEC"
  | .hsBoot _ => "HS.BOOT"
  | .hsRx _ => "HS.RX"
  | .hsTick _ => "HS.TICK"
  | .hsStatus => "HS.STATUS"
  | .msgSta _ => "MSG.STA"
  | .msgVrp _ => "MSG.VRP"
  | .msgFin _ => "MSG.FIN"
  | .msgIdl _ => "MSG.IDL"
  | .keyMessageName _ => "KEY.MessageName"
  | .keyOperationNumber _ => "KEY.OperationNumber"
  | .keyAmount _ => "KEY.Amount"
  | .keyKeepaliveInterval _ => "KEY.KeepaliveInterval"
  | .keyQrPayload _ => "KEY.QrPayload"
  | .frameHdr _ _ => "FRAME.HDR"

/-- The format's name and the number of a code word, as the opcode table numbers it. -/
def CodeWord.numbered : CodeWord → String × Nat
  | .cmd8 code => ("CMD8", code.toNat)
  | .msgName24 name => ("MSGNAME24", name.toNat)
  | .tlvKey8 key => ("TLVKEY8", key.toNat)
  | .frame40 header => ("FRAME40", header.toNat)

/-- A code word carries a row's fixed bits in the row's format. -/
abbrev TableRow.Matches (row : TableRow) (w : CodeWord) : Prop :=
  row.format = w.numbered.1 ∧ w.numbered.2 &&& row.mask = row.pattern

end Sys2Proof
end

