-- ==== Sys2Proof/Machine/Tlv.lean ====
section
/-!
DEFINITION. The Record Codec (41_tlv): TLV.ENC and TLV.DEC.
-/

namespace Sys2Proof.Machine

/-- One record: key code, length, value (30_encoding R60). -/
def recordBytes (code : Byte) (v : Bytes) : Bytes := code :: BitVec.ofNat 8 v.length :: v

/-- The record of a key of KEYMAP, nothing where the set has none. -/
def entryBytes (r : RecordSet) (e : Byte × TlvKey) : Bytes :=
  match recGet r e.2 with
  | some v => recordBytes e.1 v
  | none => []

/-- The loop of TLV.ENC (41_tlv R101): the keys of `r` in increasing order of code, which is KEYMAP's own order. -/
def tlvEncode (m : KeyMap) (r : RecordSet) : Bytes := m.flatMap (entryBytes r)

/-- `if key(c) = k ≠ none and k ∉ r then r[k] <- v` (41_tlv R102): the first occurrence wins. -/
def insertFirst (m : KeyMap) (r : RecordSet) (c : Byte) (v : Bytes) : RecordSet :=
  match keyOf m c with
  | none => r
  | some k => if recGet r k = none then recSet r k v else r

/-- The loop of TLV.DEC (41_tlv R102) from a cursor: the list is `p` from the cursor on. A round needs a key byte, a
length byte and the whole value; it consumes at least two bytes, so fuel of the list's length is enough. -/
def tlvRounds (m : KeyMap) : Nat → Bytes → RecordSet → RecordSet
  | fuel + 1, c :: l :: rest, r =>
    if l.toNat ≤ rest.length then
      tlvRounds m fuel (rest.drop l.toNat) (insertFirst m r c (rest.take l.toNat))
    else r
  | _, _, r => r

/-- The record set TLV.DEC finds in a payload (41_tlv R102); "Decoding never fails - it only stops early". -/
def tlvDecode (m : KeyMap) (p : Bytes) : RecordSet := tlvRounds m p.length p []

/-- TLV.ENC, 41_tlv R101. VALUE_TOO_LONG needs a value no RecordSet holds (log entry 8). -/
def execTlvEnc (r : RecordSet) (s : State) : Host.Outcome State Fault Refusal :=
  .next (unlessFaulted s
    (if anyTooLong r = true then s.raise .valueTooLong
     else s.respond { status := .ok, result := .bytes (tlvEncode s.cfg.keymap r) }))

/-- A record stream presented to the Record Codec: TLV.DEC of it. -/
def recordStream (p : Bytes) (s : State) : State :=
  unlessFaulted s (s.respond { status := .ok, result := .records (tlvDecode s.cfg.keymap p) })

/-- TLV.DEC, 41_tlv R102. -/
def execTlvDec (p : Bytes) (s : State) : Host.Outcome State Fault Refusal :=
  .next (recordStream p s)

end Sys2Proof.Machine
end

