-- ==== Sys2Proof/Machine/Frame.lean ====
section
/-!
DEFINITION. The Frame Codec (42_frame): the pure function Frame, FRM.ENC, and FRM.DEC in both modes.
-/

namespace Sys2Proof.Machine

/-- Start marker, length, magic, payload: the bytes the CRC covers (20_memory R46). -/
def frameHead (p : Bytes) : Bytes := frameHeader (BitVec.ofNat 16 (2 + p.length)) ++ p

/-- The frame of a payload: its head and its CRC, big-endian (20_memory R46; 30_encoding R64, R65). -/
def framePayload (p : Bytes) : Bytes := frameHead p ++ be16Bytes (crc16 (frameHead p))

/-- The payload of `Frame(name, r)`: the set with MessageName replaced, serialized (42_frame R110). -/
def namedPayload (m : KeyMap) (name : Bytes) (r : RecordSet) : Bytes :=
  tlvEncode m (recSet r .messageName name)

/-- `Frame(name, r)` (42_frame R110). -/
def frameOf (m : KeyMap) (name : Bytes) (r : RecordSet) : Bytes := framePayload (namedPayload m name r)

/-- FRM.ENC, 42_frame R111. -/
def execFrmEnc (name : Bytes) (r : RecordSet) (s : State) : Host.Outcome State Fault Refusal :=
  .next (unlessFaulted s
    (if 255 < name.length then s.raise .valueTooLong
     else if anyTooLong (recSet r .messageName name) = true then s.raise .valueTooLong
     else if 65533 < (namedPayload s.cfg.keymap name r).length then s.raise .payloadTooLong
     else s.respond { status := .ok, result := .bytes (frameOf s.cfg.keymap name r) }))

/-- Legacy mode (42_frame R112): five bytes skipped unexamined, the rest is records. -/
def decodeLegacy (m : KeyMap) (buf : Bytes) : Except Status RecordSet :=
  .ok (tlvDecode m (buf.drop 5))

/-- Hardened mode (42_frame R113): the length field places the CRC, the CRC is compared, the payload alone is
records. -/
def decodeHardened (m : KeyMap) (buf : Bytes) (h9 : 9 ≤ buf.length) : Except Status RecordSet :=
  let len := (be16At buf 1 (by omega)).toNat
  if h : len < 2 ∨ buf.length < len + 5 then .error .badLength
  else if crc16 (memRead buf 0 (3 + len) (by omega)) ≠ be16At buf (3 + len) (by omega) then
    .error .checksumMismatch
  else .ok (tlvDecode m (memRead buf 5 (len - 2) (by omega)))

/-- FRM.DEC after its fault test (42_frame R112, R113): the record set, or the status that rejects the buffer. -/
def frameDecode (c : Config) (buf : Bytes) : Except Status RecordSet :=
  if c.rxMax < buf.length then .error .bufferTooLong
  else if h9 : buf.length < 9 then .error .frameTooShort
  else
    match c.rxCrcCheck with
    | .off => decodeLegacy c.keymap buf
    | .on => decodeHardened c.keymap buf (by omega)

/-- FRM.DEC's return of what the decoder answered. -/
def returnDecoded (s : State) : Except Status RecordSet → State
  | .error st => s.raise st
  | .ok r => s.respond { status := .ok, result := .records r }

/-- A buffer presented to the Frame Codec: FRM.DEC of it. -/
def bufferArrives (buf : Bytes) (s : State) : State :=
  unlessFaulted s (returnDecoded s (frameDecode s.cfg buf))

/-- FRM.DEC, 42_frame R112 (RX_CRC_CHECK off) and R113 (on). -/
def execFrmDec (buf : Bytes) (s : State) : Host.Outcome State Fault Refusal :=
  .next (bufferArrives buf s)

end Sys2Proof.Machine
end

