-- ==== Sys2Proof/Machine/Handshake.lean ====
section
/-!
DEFINITION. The Handshake State Machine (43_handshake): the message builders, HS.BOOT, HS.RX with its four
transition rules, HS.TICK.
-/

namespace Sys2Proof.Machine

/-- `Frame(name, r)` for a message of the block. Where a value of `r` has more than 255 bytes `Frame` is not defined
and the frame is the free value `Config.unstatedFrame` (log entry 17). -/
def messageFrame (c : Config) (name : Bytes) (r : RecordSet) : Bytes :=
  if anyTooLong r = true then c.unstatedFrame name r else frameOf c.keymap name r

/-- `MsgIDL()` (43_handshake R120; 30_encoding R62). -/
def msgIDL (s : State) : Bytes :=
  messageFrame s.cfg nameIDL (recSet [] .operationNumber (dec s.opCounter))

/-- The two records VRP and FIN carry (30_encoding R62). -/
def amountRecords (s : State) : RecordSet :=
  recSet (recSet [] .operationNumber (dec s.opCounter)) .amount (dec s.pendingAmount)

/-- `MsgVRP()` (43_handshake R120). -/
def msgVRP (s : State) : Bytes := messageFrame s.cfg nameVRP (amountRecords s)

/-- `MsgFIN()` (43_handshake R120). -/
def msgFIN (s : State) : Bytes := messageFrame s.cfg nameFIN (amountRecords s)

/-- HS.BOOT, 43_handshake R122. -/
def execHsBoot (now : Nat) (s : State) : Host.Outcome State Fault Refusal :=
  let s' := s.boot (s.timePort now)
  .next (unlessBooted s (s'.respond { status := .ok, tx := [msgIDL s'] }))

/-- `elapsed` (43_handshake R131): a time before the last send counts as none elapsed. -/
def elapsed (s : State) (now : Nat) : Nat := if s.lastIdl ≤ now then now - s.lastIdl else 0

/-- HS.TICK, 43_handshake R131. -/
def execHsTick (now : Nat) (s : State) : Host.Outcome State Fault Refusal :=
  let t := s.timePort now
  .next (whenBooted s
    (if s.cfg.keepaliveInterval < elapsed s t then
       (s.setLastIdl t).respond { status := .ok, tx := [msgIDL (s.setLastIdl t)] }
     else s.respond { status := .ok }))

/-- What rules R126 to R129 of 43_handshake read and write: the registers, `tx` and `event` of R123 line 15. -/
structure Rx where
  st : State
  tx : List Bytes := []
  event : Event := .none
deriving DecidableEq, Repr

/-- Start, 43_handshake R126. -/
def rxStart (name : Option Bytes) (amt : Field) (x : Rx) : Rx :=
  match amt with
  | .val v =>
    if name = some nameSTA ∧ x.st.stage = .idle then
      { st := x.st.start v, tx := x.tx ++ [msgVRP (x.st.start v)], event := .start }
    else x
  | _ => x

/-- Reserve-confirm, 43_handshake R127. -/
def rxReserve (name : Option Bytes) (amt : Field) (x : Rx) : Rx :=
  match amt with
  | .val v =>
    if name = some nameVRP ∧ x.st.stage = .started ∧ v = x.st.pendingAmount then
      { st := x.st.setStage .reserved, tx := x.tx ++ [msgFIN (x.st.setStage .reserved)], event := .reserveConfirm }
    else x
  | _ => x

/-- Finalize-confirm, 43_handshake R128. -/
def rxFinalize (name : Option Bytes) (amt : Field) (x : Rx) : Rx :=
  match amt with
  | .val v =>
    if name = some nameFIN ∧ x.st.stage = .reserved ∧ v = x.st.pendingAmount then
      { st := x.st.setStage .finalized, tx := x.tx, event := .finalizeConfirm }
    else x
  | _ => x

/-- Acknowledge and reset of the session, 43_handshake R129. -/
def rxAcknowledge (x : Rx) : Rx :=
  if x.st.stage = .finalized then
    { st := x.st.endSession, tx := x.tx ++ [msgIDL x.st], event := x.event }
  else x

/-- Seeding, 43_handshake R123 line 14. -/
def rxSeed (opn : Field) (s : State) : State :=
  match opn with
  | .val q => s.seed q
  | _ => s

/-- 43_handshake R123 line 16: the four rules in order, none skipped (R130). -/
def rxTransitions (name : Option Bytes) (amt : Field) (s : State) : Rx :=
  rxAcknowledge (rxFinalize name amt (rxReserve name amt (rxStart name amt { st := s })))

/-- 43_handshake R123 lines 4 to 17, for a decoded record set: the abort tests before every write, then seeding, then
the transitions. -/
def classify (s : State) (r : RecordSet) : State :=
  let name := recGet r .messageName
  let opn := opnField s r
  let amt := amtField s r
  match abortCause s name opn amt with
  | some c => s.abort c
  | none =>
    let x := rxTransitions name amt (rxSeed opn s)
    x.st.respond { status := rxStatus name opn amt, tx := x.tx, event := x.event }

/-- 43_handshake R123 lines 2 to 17: a rejected buffer is no message, a decoded record set is classified. -/
def receiveDecoded (s : State) : Except Status RecordSet → State
  | .error st => s.raise st
  | .ok r => classify s r

/-- HS.RX, 43_handshake R123 to R130. -/
def execHsRx (buf : Bytes) (s : State) : Host.Outcome State Fault Refusal :=
  .next (whenBooted s (receiveDecoded s (frameDecode s.cfg buf)))

/-- A decoded record set with a given MessageName reaches the Handshake State Machine (00_scope R3): the gate of
HS.RX, then its lines 4 to 17. VALUE_TOO_LONG needs a value no RecordSet holds (log entries 8 and 9). -/
def messageArrives (name : Bytes) (r : RecordSet) (s : State) : State :=
  whenBooted s
    (if anyTooLong r = true then s.raise .valueTooLong
     else classify s (recSet r .messageName name))

end Sys2Proof.Machine
end

