-- ==== Sys2Proof/Machine/Wire.lean ====
section
/-!
DEFINITION. The wire items of the opcode table: four message names, five key codes, the frame header, each with the
meaning the unit that reads it gives it (DESIGN CHOICE, log entry 9, safe); and what the block does with a code word
that selects no row.
-/

namespace Sys2Proof.Machine

/-- MSG.STA, 43_handshake R126: a record set named "STA" is classified. -/
def execMsgSta (r : RecordSet) (s : State) : Host.Outcome State Fault Refusal :=
  .next (messageArrives nameSTA r s)

/-- MSG.VRP, 43_handshake R127: a record set named "VRP" is classified. -/
def execMsgVrp (r : RecordSet) (s : State) : Host.Outcome State Fault Refusal :=
  .next (messageArrives nameVRP r s)

/-- MSG.FIN, 43_handshake R128 and R129: a record set named "FIN" is classified. -/
def execMsgFin (r : RecordSet) (s : State) : Host.Outcome State Fault Refusal :=
  .next (messageArrives nameFIN r s)

/-- MSG.IDL: a record set named "IDL" is classified; it matches no event and may seed (30_encoding R74, 43_handshake
R125). The block's own IDL frames are `msgIDL`. -/
def execMsgIdl (r : RecordSet) (s : State) : Host.Outcome State Fault Refusal :=
  .next (messageArrives nameIDL r s)

/-- KEY.MessageName: a record stream whose first key byte is 0x01 (30_encoding R60, R70; 41_tlv R102). -/
def execKeyMessageName (rest : Bytes) (s : State) : Host.Outcome State Fault Refusal :=
  .next (recordStream (0x01#8 :: rest) s)

/-- KEY.OperationNumber: a record stream whose first key byte is 0x03. -/
def execKeyOperationNumber (rest : Bytes) (s : State) : Host.Outcome State Fault Refusal :=
  .next (recordStream (0x03#8 :: rest) s)

/-- KEY.Amount: a record stream whose first key byte is 0x04. -/
def execKeyAmount (rest : Bytes) (s : State) : Host.Outcome State Fault Refusal :=
  .next (recordStream (0x04#8 :: rest) s)

/-- KEY.KeepaliveInterval: a record stream whose first key byte is 0x05. -/
def execKeyKeepaliveInterval (rest : Bytes) (s : State) : Host.Outcome State Fault Refusal :=
  .next (recordStream (0x05#8 :: rest) s)

/-- KEY.QrPayload: a record stream whose first key byte is 0x0A. -/
def execKeyQrPayload (rest : Bytes) (s : State) : Host.Outcome State Fault Refusal :=
  .next (recordStream (0x0A#8 :: rest) s)

/-- FRAME.HDR: a buffer that begins with the header of length field `len` (20_memory R46; 30_encoding R79, R81;
42_frame R112, R113). -/
def execFrameHdr (len : Word16) (rest : Bytes) (s : State) : Host.Outcome State Fault Refusal :=
  .next (bufferArrives (frameHeader len ++ rest) s)

/-- What the block does with a code word that selects no row: an unassigned command is ILLEGAL_COMMAND, before every
other test (30_encoding R80; 60_exceptions R155); any other name, key byte or header is legal on the wire and goes to
the unit that reads it (30_encoding R76, R78, R79). -/
def unassigned (e : DecodeError) (p : Ports) (s : State) : State :=
  match e with
  | .unassignedCommand _ => s.raise .illegalCommand
  | .unmatchedName name => messageArrives (nameBytes name) p.records s
  | .otherKey key => recordStream (key :: p.bytes) s
  | .otherHeader header => bufferArrives (headerBytes header ++ p.bytes) s

end Sys2Proof.Machine
end

