-- ==== Sys2Proof/Machine/Dispatch.lean ====
section
/-!
DEFINITION. One arm per instruction: a direct call of its meaning.
-/

namespace Sys2Proof.Machine

def exec (i : Instr) (s : State) : Host.Outcome State Fault Refusal :=
  match i with
  | .reset => Sys2Proof.Machine.execReset s
  | .crcInit => Sys2Proof.Machine.execCrcInit s
  | .crcUpdate b => Sys2Proof.Machine.execCrcUpdate b s
  | .crcRead => Sys2Proof.Machine.execCrcRead s
  | .crcCompute bs => Sys2Proof.Machine.execCrcCompute bs s
  | .tlvEnc r => Sys2Proof.Machine.execTlvEnc r s
  | .tlvDec p => Sys2Proof.Machine.execTlvDec p s
  | .frmEnc name r => Sys2Proof.Machine.execFrmEnc name r s
  | .frmDec buf => Sys2Proof.Machine.execFrmDec buf s
  | .hsBoot now => Sys2Proof.Machine.execHsBoot now s
  | .hsRx buf => Sys2Proof.Machine.execHsRx buf s
  | .hsTick now => Sys2Proof.Machine.execHsTick now s
  | .hsStatus => Sys2Proof.Machine.execHsStatus s
  | .msgSta r => Sys2Proof.Machine.execMsgSta r s
  | .msgVrp r => Sys2Proof.Machine.execMsgVrp r s
  | .msgFin r => Sys2Proof.Machine.execMsgFin r s
  | .msgIdl r => Sys2Proof.Machine.execMsgIdl r s
  | .keyMessageName rest => Sys2Proof.Machine.execKeyMessageName rest s
  | .keyOperationNumber rest => Sys2Proof.Machine.execKeyOperationNumber rest s
  | .keyAmount rest => Sys2Proof.Machine.execKeyAmount rest s
  | .keyKeepaliveInterval rest => Sys2Proof.Machine.execKeyKeepaliveInterval rest s
  | .keyQrPayload rest => Sys2Proof.Machine.execKeyQrPayload rest s
  | .frameHdr len rest => Sys2Proof.Machine.execFrameHdr len rest s

end Sys2Proof.Machine
end

