-- ==== Sys2Proof/Machine/Perform.lean ====
section
/-!
DEFINITION. Performing one presented operation: decode its word, run its instruction, or do what the block does with a
word that selects no row.
-/

namespace Sys2Proof.Machine

/-- One operation, atomically (20_memory R52). -/
def perform (q : Request) (s : State) : Host.Outcome State Fault Refusal :=
  match decode q with
  | .ok i => exec i s
  | .error e => .next (unassigned e q.ports s)

end Sys2Proof.Machine
end

