-- ==== Sys2Proof/Machine/Step.lean ====
section
/-!
DEFINITION. One step: the oldest presented operation is taken, decoded and performed (00_scope R8; 20_memory R52).
-/

namespace Sys2Proof.Machine

/-- A step performs one operation, atomically. With nothing presented the block waits (DESIGN CHOICE, log entry 1,
safe). -/
def step (s : State) : Host.Outcome State Fault Refusal :=
  match fetch s with
  | none => .next s
  | some (q, s') => perform q s'

/-- `s` with a table word, its operand ports empty or zero, presented as the next operation (log entries 10, 12). -/
def State.withFetchWord (s : State) (nbits w : Nat) : State :=
  match tableRequest nbits w with
  | some q => { s with pending := q :: s.pending }
  | none => s

end Sys2Proof.Machine
end

