-- ==== Sys2Proof/WellFormed.lean ====
section
/-!
DEFINITION. When an instruction's operands are values of the types 30_encoding R75 gives them.
-/

namespace Sys2Proof

/-- The canonical form of a record set: one slot per key, slots in rising ordinal, "each value is a byte sequence of
length 0 to 255" (10_state R31). -/
abbrev RecordSet.Ok (r : RecordSet) : Prop :=
  r.Pairwise (fun a b => a.1.ordinal < b.1.ordinal) ∧ ∀ e ∈ r, e.2.length ≤ 255

/-- Every key of the set is a member of the closed set, that is, KEYMAP gives it a code (41_tlv R100). -/
abbrev RecordSet.Known (m : KeyMap) (r : RecordSet) : Prop :=
  ∀ e ∈ r, e.1 ∈ m.map Prod.snd

/-- Operands of the types of 30_encoding R75 under a configuration: record sets as 10_state R31, names of 0 to 255
bytes, times of W_TIME bits. Byte sequences may have any length (a buffer over RX_MAX has its own status). -/
abbrev Instr.Wf (c : Config) : Instr → Prop
  | .tlvEnc r => RecordSet.Ok r ∧ RecordSet.Known c.keymap r
  | .frmEnc name r => name.length ≤ 255 ∧ RecordSet.Ok r ∧ RecordSet.Known c.keymap r
  | .hsBoot now => now < 2 ^ c.wTime
  | .hsTick now => now < 2 ^ c.wTime
  | .msgSta r => RecordSet.Ok r ∧ RecordSet.Known c.keymap r
  | .msgVrp r => RecordSet.Ok r ∧ RecordSet.Known c.keymap r
  | .msgFin r => RecordSet.Ok r ∧ RecordSet.Known c.keymap r
  | .msgIdl r => RecordSet.Ok r ∧ RecordSet.Known c.keymap r
  | .reset => True
  | .crcInit => True
  | .crcUpdate _ => True
  | .crcRead => True
  | .crcCompute _ => True
  | .tlvDec _ => True
  | .frmDec _ => True
  | .hsRx _ => True
  | .hsStatus => True
  | .keyMessageName _ => True
  | .keyOperationNumber _ => True
  | .keyAmount _ => True
  | .keyKeepaliveInterval _ => True
  | .keyQrPayload _ => True
  | .frameHdr _ _ => True

end Sys2Proof
end

