-- ==== Sys2Proof/Safety.lean ====
section
/-!
DEFINITION. The terms claims are stated in: the invariant of a run, a well-formed frame on the wire, sequences of
operations, the statuses each operation may return, and the spec's cursor loop for TLV.DEC.
-/

namespace Sys2Proof.Machine

/-- What holds after reset and after every operation: 10_state R37 (a), (b), (d), (e) and the second half of (c), the
widths of 10_state R20, a configuration of the spec; and that a set `fault` has a cause. -/
abbrev State.Inv (s : State) : Prop :=
  s.cfg.Valid ∧
  (s.stage = .idle → s.pendingAmount = 0) ∧
  s.stage ≠ .finalized ∧
  (s.opSeeded = false → s.opCounter = 0) ∧
  (s.fault = false ↔ s.faultCause = .none) ∧
  (s.booted = false → s.stage = .idle ∧ s.opSeeded = false ∧ s.opCounter = 0 ∧ s.lastIdl = 0) ∧
  s.pendingAmount < 2 ^ s.cfg.wAmt ∧
  s.opCounter < 2 ^ s.cfg.wOp ∧
  s.lastIdl < 2 ^ s.cfg.wTime

/-- A well-formed frame: start marker, a length field that counts the magic and the payload, the magic, and a CRC that
leaves residue 0x0000 (42_frame R117; 40_crc R98). -/
abbrev FrameOk (f : Bytes) : Prop :=
  9 ≤ f.length ∧ f.length ≤ 65540 ∧
  f.take 1 = [0x1F#8] ∧
  (f.drop 1).take 2 = be16Bytes (BitVec.ofNat 16 (f.length - 5)) ∧
  (f.drop 3).take 2 = [0x96#8, 0xFB#8] ∧
  crc16 f = 0#16

/-- Nothing but the response differs. -/
abbrev OnlyResponse (s t : State) : Prop := t = { s with response := t.response }

/-- Operations performed one after another, stopping at the first stop (20_memory R52). -/
def performAll : List Instr → State → Host.Outcome State Fault Refusal
  | [], s => .next s
  | i :: is, s =>
    match exec i s with
    | .next t => performAll is t
    | .fault r => .fault r
    | .refused r => .refused r

/-- A run of records with nothing between them (20_memory R47). -/
def recordsBytes (rs : List (Byte × Bytes)) : Bytes := rs.flatMap fun e => recordBytes e.1 e.2

/-- The bytes the CRC.UPDATE operations of a sequence carry, in order. -/
def updateBytes : List Instr → Bytes
  | [] => []
  | .crcUpdate b :: is => b :: updateBytes is
  | _ :: is => updateBytes is

/-- RESET, or an operation of the Checksum Engine other than CRC.UPDATE that writes `crc`. -/
def restartsCrc : Instr → Bool
  | .reset => true
  | .crcInit => true
  | .crcCompute _ => true
  | _ => false

/-- The loop of 41_tlv R102 as the spec writes it, with the cursor `i` and `n = len(p)`. -/
def tlvCursor (m : KeyMap) (p : Bytes) : Nat → Nat → RecordSet → RecordSet
  | 0, _, r => r
  | fuel + 1, i, r =>
    if h : p.length < i + 2 then r
    else
      let c := p[i]'(by omega)
      let l := (p[i + 1]'(by omega)).toNat
      if h2 : p.length < i + 2 + l then r
      else tlvCursor m p fuel (i + 2 + l) (insertFirst m r c (memRead p (i + 2) l (by omega)))

/-- The statuses FRM.DEC can return besides OK and FAULTED (60_exceptions R151). -/
def rejections : List Status := [.bufferTooLong, .frameTooShort, .badLength, .checksumMismatch]

/-- The row of 60_exceptions R151 for each operation, OK included; a wire item has the row of the operation whose unit
reads it (log entry 9). -/
def statusesOf : Instr → List Status
  | .reset | .hsStatus => [.ok]
  | .crcInit | .crcUpdate _ | .crcRead | .crcCompute _ | .tlvDec _ => [.ok, .faulted]
  | .tlvEnc _ => [.ok, .faulted, .valueTooLong]
  | .frmEnc _ _ => [.ok, .faulted, .valueTooLong, .payloadTooLong]
  | .frmDec _ | .frameHdr _ _ => [.ok, .faulted] ++ rejections
  | .hsBoot _ => [.ok, .faulted, .alreadyBooted]
  | .hsRx _ => [.ok, .faulted, .notBooted, .aborted, .ignoredNoAmount, .ignoredBadValue] ++ rejections
  | .hsTick _ => [.ok, .faulted, .notBooted]
  | .msgSta _ | .msgVrp _ | .msgFin _ | .msgIdl _ =>
    [.ok, .faulted, .notBooted, .valueTooLong, .aborted, .ignoredNoAmount, .ignoredBadValue]
  | .keyMessageName _ | .keyOperationNumber _ | .keyAmount _ | .keyKeepaliveInterval _ | .keyQrPayload _ =>
    [.ok, .faulted]

end Sys2Proof.Machine
end

