-- ==== Sys2Proof/Certificates/Slice0/Obligations.lean ====
section
/-!
DEFINITION. The statements for the provers. Each docstring names the rule of spec/ it formalises, or says which
model choice (log entry) it rests on.
-/

open Sys2Proof Sys2Proof.Machine

/-! ### Reset, status, step, encoding -/

/-- 10_state R36, 44_system R140, 70_reset R181: the register values after power-on in any configuration; and RESET in
every state, faulted or not: the whole next state, KEYMAP and the other parameters unaffected, nothing emitted. That the
host's further requests stay is the model's choice (log entry 1). -/
def Obligations.ResetLeavesTableValues : Prop :=
  (∀ c : Config,
    (State.resetWith c).crc = 0xFFFF#16 ∧ (State.resetWith c).stage = .idle ∧
    (State.resetWith c).pendingAmount = 0 ∧ (State.resetWith c).opCounter = 0 ∧
    (State.resetWith c).opSeeded = false ∧ (State.resetWith c).booted = false ∧
    (State.resetWith c).lastIdl = 0 ∧ (State.resetWith c).fault = false ∧
    (State.resetWith c).faultCause = .none ∧ (State.resetWith c).cfg = c) ∧
  (∀ s : State, exec .reset s = .next
    { s with
      crc := 0xFFFF#16, stage := .idle, pendingAmount := 0, opCounter := 0, opSeeded := false, booted := false,
      lastIdl := 0, fault := false, faultCause := .none, response := some { status := .ok } })

/-- 44_system R141: HS.STATUS in every state returns the eight registers and writes none; it never returns Finalized
from a state that meets the invariant. -/
def Obligations.StatusReadsTheRegisters : Prop :=
  ∀ s : State,
    exec .hsStatus s = .next
      { s with
        response := some
          { status := .ok
            result := .registers
              { stage := s.stage, pendingAmount := s.pendingAmount, opCounter := s.opCounter,
                opSeeded := s.opSeeded, booted := s.booted, lastIdl := s.lastIdl, fault := s.fault,
                faultCause := s.faultCause } } } ∧
    (s.Inv → s.registers.stage ≠ .finalized)

/-- The step takes the oldest presented operation and performs it; with nothing presented the block waits (log
entry 1). -/
def Obligations.StepRunsThePresentedInstruction : Prop :=
  (∀ (s : State) (q : Request) (rest : List Request) (i : Instr),
    s.pending = q :: rest → decode q = .ok i → step s = exec i { s with pending := rest }) ∧
  (∀ s : State, s.pending = [] → step s = .next s)

/-- 30_encoding R80: a command code outside the table of R75 returns ILLEGAL_COMMAND and changes nothing, in every
state, whatever the operand ports hold. -/
def Obligations.UnassignedCommandIsIllegal : Prop :=
  ∀ (s : State) (code : BitVec 8) (p : Ports) (rest : List Request),
    s.pending = { word := .cmd8 code, ports := p } :: rest →
    code ∉ [0x01#8, 0x10#8, 0x11#8, 0x12#8, 0x13#8, 0x20#8, 0x21#8, 0x30#8, 0x31#8, 0x40#8, 0x41#8, 0x42#8, 0x43#8] →
    step s = .next { s with pending := rest, response := some { status := .illegalCommand } }

/-- A wire word that is no row of the table still reaches the unit that reads it (log entry 9): a key byte goes to the
Record Codec, five header bytes go to the Frame Codec, a name goes to the Handshake State Machine, where it matches no
event: it is gated (43_handshake R121), aborts or seeds as R123 lines 6, 9 and 14 say of its operation number, and does
nothing else. A value over 255 bytes is refused (log entry 8). -/
def Obligations.UnassignedWireWordsAreRead : Prop :=
  ∀ (s u : State) (p : Ports) (rest : List Request) (opn : Field), u = { s with pending := rest } →
    opn = (if s.opSeeded then .absent else fieldUint p.records .operationNumber s.cfg.wOp) →
    (∀ key : BitVec 8, key ∉ [0x01#8, 0x03#8, 0x04#8, 0x05#8, 0x0A#8] →
      s.pending = { word := .tlvKey8 key, ports := p } :: rest →
      step s = exec (.tlvDec (key :: p.bytes)) u) ∧
    (∀ header : BitVec 40, header &&& 0xFF0000FFFF#40 ≠ 0x1F000096FB#40 →
      s.pending = { word := .frame40 header, ports := p } :: rest →
      step s = exec (.frmDec (headerBytes header ++ p.bytes)) u) ∧
    (∀ name : BitVec 24, name ∉ [0x535441#24, 0x565250#24, 0x46494E#24, 0x49444C#24] →
      s.stage ≠ .finalized → s.pending = { word := .msgName24 name, ports := p } :: rest →
      (s.fault = true → step s = .next { u with response := some { status := .faulted } }) ∧
      (s.fault = false → s.booted = false → step s = .next { u with response := some { status := .notBooted } }) ∧
      (s.fault = false → s.booted = true → (∃ e ∈ p.records, 255 < e.2.length) →
        step s = .next { u with response := some { status := .valueTooLong } }) ∧
      (s.fault = false → s.booted = true → (∀ e ∈ p.records, e.2.length ≤ 255) →
        (s.cfg.badFieldPolicy = .abort → opn = .bad →
          step s = .next
            { u with
              fault := true, faultCause := .opnumUnparseable, response := some { status := .aborted } }) ∧
        ((opn = .bad → s.cfg.badFieldPolicy = .ignore) →
          step s = .next
            { u with
              opCounter := (match opn with | .val q => q | _ => s.opCounter)
              opSeeded := s.opSeeded || isVal opn
              response := some { status := if opn = .bad then .ignoredBadValue else .ok } })))

/-- Words written out from 30_encoding R70, R74, R75 and 20_memory R46 decode to the rows they stand for. -/
def Obligations.TableWordsDecode : Prop :=
  decodeTableWord 8 0x01 = some .reset ∧
  decodeTableWord 8 0x11 = some (.crcUpdate 0#8) ∧
  decodeTableWord 8 0x21 = some (.tlvDec []) ∧
  decodeTableWord 8 0x30 = some (.frmEnc [] []) ∧
  decodeTableWord 8 0x41 = some (.hsRx []) ∧
  decodeTableWord 8 0x43 = some .hsStatus ∧
  decodeTableWord 24 0x535441 = some (.msgSta []) ∧
  decodeTableWord 8 0x04 = some (.keyAmount []) ∧
  decodeTableWord 40 0x1F000096FB = some (.frameHdr 0#16 []) ∧
  decodeTableWord 40 0x1F000C96FB = some (.frameHdr 12#16 []) ∧
  decodeTableWord 8 0x02 = none

/-- Decoding an encoded instruction gives it back, with every operand at every value. -/
def Obligations.DecodeInvertsEncode : Prop :=
  ∀ i : Instr, decode (encode i) = .ok i

/-- The other direction: a code word that decodes is the one the encoder gives that instruction, so no two words of
one format select the same row. -/
def Obligations.DecodedWordIsTheEncodedWord : Prop :=
  ∀ (q : Request) (i : Instr), decode q = .ok i → (encode i).word = q.word

/-! ### Checksum Engine -/

/-- 40_crc R91: every table entry is the eight-round construction (the construction is general knowledge in the spec,
log entry 4). -/
def Obligations.CrcTableIsTheConstruction : Prop :=
  ∀ i : Byte, crcTable i = crcShift8 (i.setWidth 16 <<< 8)

/-- 40_crc R91, "Equivalently": one table step is eight rounds of the bit-serial shift register (log entry 4). -/
def Obligations.CrcStepIsBitSerial : Prop :=
  ∀ (reg : Word16) (b : Byte), crcStep reg b = crcShift8 (reg ^^^ (b.setWidth 16 <<< 8))

/-- 40_crc R92 and R94: CRC.INIT loads 0xFFFF; CRC.READ returns the register and writes nothing. -/
def Obligations.CrcInitAndReadAccessTheRegister : Prop :=
  ∀ s : State,
    (s.fault = true →
      exec .crcInit s = .next { s with response := some { status := .faulted } } ∧
      exec .crcRead s = .next { s with response := some { status := .faulted } }) ∧
    (s.fault = false →
      exec .crcInit s = .next { s with crc := 0xFFFF#16, response := some { status := .ok } } ∧
      exec .crcRead s = .next { s with response := some { status := .ok, result := .crc s.crc } })

/-- 40_crc R93: CRC.UPDATE. -/
def Obligations.CrcUpdateStepsTheRegister : Prop :=
  ∀ (s : State) (b : Byte),
    (s.fault = true → exec (.crcUpdate b) s = .next { s with response := some { status := .faulted } }) ∧
    (s.fault = false → exec (.crcUpdate b) s = .next
      { s with
        crc := (s.crc <<< 8) ^^^ crcTable ((s.crc >>> 8).setWidth 8 ^^^ b), response := some { status := .ok } })

/-- 40_crc R95: CRC.COMPUTE leaves and returns CRC16 of its operand, whatever `crc` held; the empty sequence gives
0xFFFF; and it equals CRC.INIT, one CRC.UPDATE per byte in order, CRC.READ. -/
def Obligations.CrcComputeIsInitUpdatesRead : Prop :=
  crc16 [] = 0xFFFF#16 ∧
  ∀ (s : State) (bs : Bytes),
    (s.fault = true → exec (.crcCompute bs) s = .next { s with response := some { status := .faulted } }) ∧
    (s.fault = false → exec (.crcCompute bs) s = .next
      { s with crc := crc16 bs, response := some { status := .ok, result := .crc (crc16 bs) } }) ∧
    (s.fault = false → exec (.crcCompute bs) s = performAll ([.crcInit] ++ bs.map .crcUpdate ++ [.crcRead]) s)

/-- 40_crc R97: after CRC.INIT, CRC.UPDATEs interleaved with any operations of the other units leave in `crc` the CRC16
of the bytes given, as long as no operation faulted the block (an inference the spec marks as its own). -/
def Obligations.CrcStreamSurvivesInterleaving : Prop :=
  ∀ (s t : State) (is : List Instr),
    s.fault = false → (∀ i ∈ is, restartsCrc i = false) →
    performAll (.crcInit :: is) s = .next t → t.fault = false → t.crc = crc16 (updateBytes is)

/-- 40_crc R98: a sequence with its own two CRC bytes appended has CRC 0x0000 (an inference the spec marks as its
own; it rests on the table, log entry 4). -/
def Obligations.CrcResidueIsZero : Prop :=
  ∀ bs : Bytes, crc16 (bs ++ [hi8 (crc16 bs), lo8 (crc16 bs)]) = 0#16

/-- 10_state R21: the operations that write `crc` are CRC.INIT, CRC.UPDATE, CRC.COMPUTE and RESET; the four operations
of the Checksum Engine write nothing else. -/
def Obligations.CrcRegisterFrame : Prop :=
  ∀ (i : Instr) (s t : State), exec i s = .next t →
    (restartsCrc i = false → (∀ b, i ≠ .crcUpdate b) → t.crc = s.crc) ∧
    ((i = .crcInit ∨ (∃ b, i = .crcUpdate b) ∨ i = .crcRead ∨ ∃ bs, i = .crcCompute bs) →
      t = { s with crc := t.crc, response := t.response })

/-! ### Record Codec -/

/-- 41_tlv R101: TLV.ENC in each case; the payload is the records in KEYMAP's order, which in a configuration of the
spec is increasing code, and its length is the sum of 2 plus each value's length. -/
def Obligations.TlvEncSerializesInCodeOrder : Prop :=
  ∀ (s : State) (r : RecordSet),
    (s.fault = true → exec (.tlvEnc r) s = .next { s with response := some { status := .faulted } }) ∧
    (s.fault = false → (∃ e ∈ r, 255 < e.2.length) →
      exec (.tlvEnc r) s = .next { s with response := some { status := .valueTooLong } }) ∧
    (s.fault = false → s.cfg.Valid → RecordSet.Ok r → RecordSet.Known s.cfg.keymap r →
      ∃ p, exec (.tlvEnc r) s = .next { s with response := some { status := .ok, result := .bytes p } } ∧
        p = s.cfg.keymap.flatMap (fun e =>
          match recGet r e.2 with
          | some v => e.1 :: BitVec.ofNat 8 v.length :: v
          | none => []) ∧
        s.cfg.keymap.Pairwise (fun a b => a.1.toNat < b.1.toNat) ∧
        p.length = (r.map (fun e => 2 + e.2.length)).sum)

/-- 41_tlv R102: TLV.DEC's response, and the loop it runs, cursor and all, from the spec's pseudocode. -/
def Obligations.TlvDecIsTheCursorLoop : Prop :=
  ∀ (s : State) (p : Bytes),
    (s.fault = true → exec (.tlvDec p) s = .next { s with response := some { status := .faulted } }) ∧
    (s.fault = false → exec (.tlvDec p) s = .next
      { s with
        response := some { status := .ok, result := .records (tlvCursor s.cfg.keymap p (p.length + 1) 0 []) } })

/-- What TLV.DEC returns is a record set: canonical, values of at most 255 bytes, recognised keys only (10_state R31;
canonical form is the model's, log entry 7). -/
def Obligations.DecodedRecordSetsAreRecordSets : Prop :=
  ∀ (m : KeyMap) (p : Bytes), RecordSet.Ok (tlvDecode m p) ∧ RecordSet.Known m (tlvDecode m p)

/-- 41_tlv R103: TLV.ENC then TLV.DEC of the payload gives the record set back, for every record set over every KEYMAP
(an inference the spec marks as its own). -/
def Obligations.TlvRoundTrip : Prop :=
  ∀ (s : State) (r : RecordSet), s.fault = false → s.cfg.Valid → RecordSet.Ok r → RecordSet.Known s.cfg.keymap r →
    ∃ p t, exec (.tlvEnc r) s = .next t ∧ t.response = some { status := .ok, result := .bytes p } ∧
      exec (.tlvDec p) t = .next { t with response := some { status := .ok, result := .records r } }

/-- 41_tlv R104: a well-formed record with an unrecognised key, after whole records, changes nothing (an inference the
spec marks as its own). -/
def Obligations.UnknownKeyIsSkipped : Prop :=
  ∀ (m : KeyMap) (a : List (Byte × Bytes)) (u : Byte × Bytes) (b : Bytes),
    (∀ e ∈ a, e.2.length ≤ 255) → u.2.length ≤ 255 → keyOf m u.1 = none →
    tlvDecode m (recordsBytes a ++ (recordBytes u.1 u.2 ++ b)) = tlvDecode m (recordsBytes a ++ b)

/-- 41_tlv R105: of two records with one key the first is kept. -/
def Obligations.FirstOccurrenceWins : Prop :=
  (∀ (m : KeyMap) (c : Byte) (k : TlvKey) (x y : Byte), keyOf m c = some k →
    tlvDecode m [c, 1#8, x, c, 1#8, y] = [(k, [x])]) ∧
  (∀ s : State, s.fault = false → s.cfg.keymap = KeyMap.reference →
    exec (.tlvDec [0x04#8, 0x01#8, 0x41#8, 0x04#8, 0x01#8, 0x42#8]) s = .next
      { s with response := some { status := .ok, result := .records [(.amount, [0x41#8])] } })

/-- 41_tlv R106: zero padding after whole records changes nothing (an inference the spec marks as its own). -/
def Obligations.ZeroPaddingIsHarmless : Prop :=
  ∀ (m : KeyMap) (a : List (Byte × Bytes)) (n : Nat), KeyMap.Valid m → (∀ e ∈ a, e.2.length ≤ 255) →
    tlvDecode m (recordsBytes a ++ List.replicate n 0#8) = tlvDecode m (recordsBytes a)

/-- 41_tlv R107: a longer input keeps every record of its prefix (an inference the spec marks as its own). -/
def Obligations.LongerInputKeepsRecords : Prop :=
  ∀ (m : KeyMap) (p q : Bytes) (k : TlvKey) (v : Bytes),
    recGet (tlvDecode m p) k = some v → recGet (tlvDecode m (p ++ q)) k = some v

/-- The five key rows (log entry 9): the record stream that begins with the row's key byte is decoded; and a whole
first record with a recognised key byte is in the result with its value. -/
def Obligations.KeyRowsDecodeTheirRecord : Prop :=
  (∀ (s : State) (rest : Bytes), s.fault = false →
    exec (.keyMessageName rest) s = .next
      { s with response := some { status := .ok, result := .records (tlvDecode s.cfg.keymap (0x01#8 :: rest)) } } ∧
    exec (.keyOperationNumber rest) s = .next
      { s with response := some { status := .ok, result := .records (tlvDecode s.cfg.keymap (0x03#8 :: rest)) } } ∧
    exec (.keyAmount rest) s = .next
      { s with response := some { status := .ok, result := .records (tlvDecode s.cfg.keymap (0x04#8 :: rest)) } } ∧
    exec (.keyKeepaliveInterval rest) s = .next
      { s with response := some { status := .ok, result := .records (tlvDecode s.cfg.keymap (0x05#8 :: rest)) } } ∧
    exec (.keyQrPayload rest) s = .next
      { s with response := some { status := .ok, result := .records (tlvDecode s.cfg.keymap (0x0A#8 :: rest)) } }) ∧
  (∀ (m : KeyMap) (c : Byte) (k : TlvKey) (v more : Bytes), keyOf m c = some k → v.length ≤ 255 →
    recGet (tlvDecode m (c :: BitVec.ofNat 8 v.length :: v ++ more)) k = some v)

/-! ### Frame Codec -/

/-- 42_frame R110 and R111: FRM.ENC in each case, the frame byte by byte from the payload. -/
def Obligations.FrmEncBuildsTheFrame : Prop :=
  ∀ (s : State) (name : Bytes) (r : RecordSet),
    (s.fault = true → exec (.frmEnc name r) s = .next { s with response := some { status := .faulted } }) ∧
    (s.fault = false → (255 < name.length ∨ ∃ e ∈ recSet r .messageName name, 255 < e.2.length) →
      exec (.frmEnc name r) s = .next { s with response := some { status := .valueTooLong } }) ∧
    (s.fault = false → name.length ≤ 255 → (∀ e ∈ recSet r .messageName name, e.2.length ≤ 255) →
      ∀ p, p = tlvEncode s.cfg.keymap (recSet r .messageName name) →
        (65533 < p.length →
          exec (.frmEnc name r) s = .next { s with response := some { status := .payloadTooLong } }) ∧
        (p.length ≤ 65533 → ∀ len h c, len = BitVec.ofNat 16 (2 + p.length) →
          h = [0x1F#8, hi8 len, lo8 len, 0x96#8, 0xFB#8] ++ p → c = crc16 h →
          exec (.frmEnc name r) s = .next
            { s with response := some { status := .ok, result := .bytes (h ++ [hi8 c, lo8 c]) } }))

/-- 42_frame R117: the layout of an encoded frame. -/
def Obligations.EncodedFrameLayout : Prop :=
  ∀ (m : KeyMap) (name : Bytes) (r : RecordSet) (p f : Bytes),
    p = tlvEncode m (recSet r .messageName name) → p.length ≤ 65533 → f = frameOf m name r →
    f.length = p.length + 7 ∧ f[0]? = some 0x1F#8 ∧ f[3]? = some 0x96#8 ∧ f[4]? = some 0xFB#8 ∧
    (∀ hi lo, f[1]? = some hi → f[2]? = some lo → (be16 hi lo).toNat = 2 + p.length) ∧
    (f.drop 5).take p.length = p ∧
    (∀ hi lo, f[5 + p.length]? = some hi → f[6 + p.length]? = some lo →
      be16 hi lo = crc16 (f.take (5 + p.length)))

/-- 42_frame R112: FRM.DEC in legacy mode: header, length and CRC unexamined, everything from offset 5 on is
records. -/
def Obligations.LegacyDecode : Prop :=
  ∀ (s : State) (buf : Bytes), s.cfg.rxCrcCheck = .off →
    (s.fault = true → exec (.frmDec buf) s = .next { s with response := some { status := .faulted } }) ∧
    (s.fault = false → s.cfg.rxMax < buf.length →
      exec (.frmDec buf) s = .next { s with response := some { status := .bufferTooLong } }) ∧
    (s.fault = false → buf.length ≤ s.cfg.rxMax → buf.length < 9 →
      exec (.frmDec buf) s = .next { s with response := some { status := .frameTooShort } }) ∧
    (s.fault = false → buf.length ≤ s.cfg.rxMax → 9 ≤ buf.length →
      exec (.frmDec buf) s = .next
        { s with response := some { status := .ok, result := .records (tlvDecode s.cfg.keymap (buf.drop 5)) } })

/-- 42_frame R113: FRM.DEC in hardened mode, the five outcomes in the order tested. -/
def Obligations.HardenedDecode : Prop :=
  ∀ (s : State) (buf : Bytes), s.cfg.rxCrcCheck = .on →
    (s.fault = true → exec (.frmDec buf) s = .next { s with response := some { status := .faulted } }) ∧
    (s.fault = false → s.cfg.rxMax < buf.length →
      exec (.frmDec buf) s = .next { s with response := some { status := .bufferTooLong } }) ∧
    (s.fault = false → buf.length ≤ s.cfg.rxMax → buf.length < 9 →
      exec (.frmDec buf) s = .next { s with response := some { status := .frameTooShort } }) ∧
    (s.fault = false → buf.length ≤ s.cfg.rxMax → 9 ≤ buf.length →
      ∀ hi lo len, buf[1]? = some hi → buf[2]? = some lo → len = hi.toNat * 256 + lo.toNat →
        (len < 2 ∨ buf.length < len + 5 →
          exec (.frmDec buf) s = .next { s with response := some { status := .badLength } }) ∧
        (2 ≤ len → len + 5 ≤ buf.length →
          ∀ chi clo, buf[3 + len]? = some chi → buf[4 + len]? = some clo →
            (crc16 (buf.take (3 + len)) ≠ chi ++ clo →
              exec (.frmDec buf) s = .next { s with response := some { status := .checksumMismatch } }) ∧
            (crc16 (buf.take (3 + len)) = chi ++ clo →
              exec (.frmDec buf) s = .next
                { s with
                  response := some
                    { status := .ok
                      result := .records (tlvDecode s.cfg.keymap ((buf.take (3 + len)).drop 5)) } })))

/-- 42_frame R116: a buffer of fewer than 9 bytes is rejected in both modes with no record set; HS.RX treats it as no
message. -/
def Obligations.ShortBufferIsRejected : Prop :=
  ∀ (s : State) (buf : Bytes), s.fault = false → buf.length ≤ s.cfg.rxMax → buf.length < 9 →
    exec (.frmDec buf) s = .next { s with response := some { status := .frameTooShort } } ∧
    (s.booted = true → exec (.hsRx buf) s = .next { s with response := some { status := .frameTooShort } })

/-- 42_frame R115, hardened mode: FRM.ENC then FRM.DEC, from a buffer of the frame alone or with any bytes after it,
gives the record set with MessageName set to the name (an inference the spec marks as its own). -/
def Obligations.HardenedFrameRoundTrip : Prop :=
  ∀ (s : State) (name : Bytes) (r : RecordSet) (trailing : Bytes),
    s.fault = false → s.cfg.Valid → s.cfg.rxCrcCheck = .on → Instr.Wf s.cfg (.frmEnc name r) →
    (tlvEncode s.cfg.keymap (recSet r .messageName name)).length ≤ 65533 →
    (frameOf s.cfg.keymap name r).length + trailing.length ≤ s.cfg.rxMax →
    ∃ f t, exec (.frmEnc name r) s = .next t ∧ t.response = some { status := .ok, result := .bytes f } ∧
      exec (.frmDec (f ++ trailing)) t = .next
        { t with response := some { status := .ok, result := .records (recSet r .messageName name) } }

/-- 42_frame R114 and R115, legacy mode: FRM.DEC answers OK on a frame followed by any bytes; fewer than its CRC's low
byte give its own record set; with at least that many, a CRC high byte that spells an absent key adds that key with a
value made of trailing bytes; and every real record stays (an inference the spec marks as its own). -/
def Obligations.LegacyFrameRoundTrip : Prop :=
  ∀ (s : State) (name : Bytes) (r : RecordSet) (trailing : Bytes) (c : Word16),
    s.fault = false → s.cfg.Valid → s.cfg.rxCrcCheck = .off → Instr.Wf s.cfg (.frmEnc name r) →
    (frameOf s.cfg.keymap name r).length + trailing.length ≤ s.cfg.rxMax →
    c = crc16 (frameHead (namedPayload s.cfg.keymap name r)) →
    ∃ d : RecordSet,
      exec (.frmDec (frameOf s.cfg.keymap name r ++ trailing)) s = .next
        { s with response := some { status := .ok, result := .records d } } ∧
      (trailing.length < (lo8 c).toNat → d = recSet r .messageName name) ∧
      (∀ k v, recGet (recSet r .messageName name) k = some v → recGet d k = some v) ∧
      (∀ k, (lo8 c).toNat ≤ trailing.length → keyOf s.cfg.keymap (hi8 c) = some k →
        recGet (recSet r .messageName name) k = none → recGet d k = some (trailing.take (lo8 c).toNat))

/-- 30_encoding R79, legacy mode: the five header bytes of an inbound buffer influence nothing, in FRM.DEC and in
HS.RX. -/
def Obligations.LegacyIgnoresTheHeader : Prop :=
  ∀ (s : State) (h h' body : Bytes), s.cfg.rxCrcCheck = .off → h.length = 5 → h'.length = 5 →
    exec (.frmDec (h ++ body)) s = exec (.frmDec (h' ++ body)) s ∧
    exec (.hsRx (h ++ body)) s = exec (.hsRx (h' ++ body)) s

/-- The header row (log entry 9): a buffer that begins with `1F LL LL 96 FB` is FRM.DEC's operand; in legacy mode what
follows the header is decoded whatever the length field says. -/
def Obligations.HeaderRowDecodesItsBuffer : Prop :=
  ∀ (s : State) (len : Word16) (rest : Bytes),
    exec (.frameHdr len rest) s = exec (.frmDec ([0x1F#8, hi8 len, lo8 len, 0x96#8, 0xFB#8] ++ rest)) s ∧
    (s.fault = false → s.cfg.rxCrcCheck = .off → 4 ≤ rest.length → rest.length + 5 ≤ s.cfg.rxMax →
      exec (.frameHdr len rest) s = .next
        { s with response := some { status := .ok, result := .records (tlvDecode s.cfg.keymap rest) } })

/-- The frame of the codecs and the read operations: TLV, FRM, the key and header rows (their meaning is log entry 9),
CRC.READ and HS.STATUS write no register, on any of their paths. -/
def Obligations.CodecsWriteNoRegister : Prop :=
  ∀ (s t : State) (p name : Bytes) (r : RecordSet) (len : Word16) (i : Instr),
    i ∈ [Instr.tlvEnc r, .tlvDec p, .frmEnc name r, .frmDec p, .hsStatus, .crcRead, .keyMessageName p,
      .keyOperationNumber p, .keyAmount p, .keyKeepaliveInterval p, .keyQrPayload p, .frameHdr len p] →
    exec i s = .next t → OnlyResponse s t

/-! ### Handshake State Machine -/

/-- 43_handshake R121: the gate of the HS operations, `fault` before `booted`; a gated operation changes nothing. -/
def Obligations.HandshakeGate : Prop :=
  ∀ (s : State) (now : Nat) (buf : Bytes),
    (s.fault = true →
      exec (.hsBoot now) s = .next { s with response := some { status := .faulted } } ∧
      exec (.hsRx buf) s = .next { s with response := some { status := .faulted } } ∧
      exec (.hsTick now) s = .next { s with response := some { status := .faulted } }) ∧
    (s.fault = false → s.booted = false →
      exec (.hsRx buf) s = .next { s with response := some { status := .notBooted } } ∧
      exec (.hsTick now) s = .next { s with response := some { status := .notBooted } }) ∧
    (s.fault = false → s.booted = true →
      exec (.hsBoot now) s = .next { s with response := some { status := .alreadyBooted } })

/-- 43_handshake R122 (and the IDL message of R120): HS.BOOT of a time of W_TIME bits. A counter of more than 255 digits
has no `Frame`, and nothing is said of its bytes (log entry 17). -/
def Obligations.BootAnnouncesTheSession : Prop :=
  ∀ (s : State) (now : Nat), s.fault = false → s.booted = false → now < 2 ^ s.cfg.wTime →
    ∃ f : Bytes,
      (s.opCounter < 10 ^ 255 →
        f = frameOf s.cfg.keymap [0x49#8, 0x44#8, 0x4C#8] [(.operationNumber, dec s.opCounter)]) ∧
      exec (.hsBoot now) s = .next
        { s with booted := true, lastIdl := now, response := some { status := .ok, tx := [f] } }

/-- 43_handshake R131: HS.TICK of a time of W_TIME bits, before and after the interval has run out. A counter of more
than 255 digits has no `Frame`, and nothing is said of its bytes (log entry 17). -/
def Obligations.TickSendsWhenTheIntervalRanOut : Prop :=
  ∀ (s : State) (now : Nat), s.fault = false → s.booted = true → now < 2 ^ s.cfg.wTime →
    (s.lastIdl + s.cfg.keepaliveInterval < now → ∃ f : Bytes,
      (s.opCounter < 10 ^ 255 →
        f = frameOf s.cfg.keymap [0x49#8, 0x44#8, 0x4C#8] [(.operationNumber, dec s.opCounter)]) ∧
      exec (.hsTick now) s = .next { s with lastIdl := now, response := some { status := .ok, tx := [f] } }) ∧
    (now ≤ s.lastIdl + s.cfg.keepaliveInterval →
      exec (.hsTick now) s = .next { s with response := some { status := .ok } })

/-- 43_handshake R126: the start event. `opn` is the operation number examined (R123 line 6), `c` the counter after
seeding; the transition fires unless an abort test applies, for HS.RX of any buffer that decodes to `r`. A counter of
more than 255 digits has no `Frame`, and nothing is said of the message's bytes (log entry 17). -/
def Obligations.StartEvent : Prop :=
  ∀ (s : State) (r : RecordSet) (v c : Nat) (opn : Field), s.fault = false → s.booted = true → s.stage = .idle →
    recGet r .messageName = some [0x53#8, 0x54#8, 0x41#8] → fieldUint r .amount s.cfg.wAmt = .val v →
    opn = (if s.opSeeded then .absent else fieldUint r .operationNumber s.cfg.wOp) →
    (opn = .bad → s.cfg.badFieldPolicy = .ignore) →
    c = (match opn with | .val q => q | _ => s.opCounter) → c ≠ 2 ^ s.cfg.wOp - 1 →
    ∀ buf, frameDecode s.cfg buf = .ok r → ∃ f : Bytes,
      (c + 1 < 10 ^ 255 →
        f = frameOf s.cfg.keymap [0x56#8, 0x52#8, 0x50#8] [(.operationNumber, dec (c + 1)), (.amount, dec v)]) ∧
      exec (.hsRx buf) s = .next
        { s with
          stage := .started, pendingAmount := v, opCounter := c + 1, opSeeded := true
          response := some
            { status := if opn = .bad then .ignoredBadValue else .ok, tx := [f], event := .start } }

/-- 43_handshake R127: the reserve-confirm event, amounts compared as integers; the counter is not incremented. A counter
of more than 255 digits has no `Frame`, and nothing is said of the message's bytes (log entry 17). -/
def Obligations.ReserveConfirmEvent : Prop :=
  ∀ (s : State) (r : RecordSet) (c : Nat) (opn : Field), s.fault = false → s.booted = true → s.stage = .started →
    recGet r .messageName = some [0x56#8, 0x52#8, 0x50#8] →
    fieldUint r .amount s.cfg.wAmt = .val s.pendingAmount →
    opn = (if s.opSeeded then .absent else fieldUint r .operationNumber s.cfg.wOp) →
    (opn = .bad → s.cfg.badFieldPolicy = .ignore) →
    c = (match opn with | .val q => q | _ => s.opCounter) →
    ∀ buf, frameDecode s.cfg buf = .ok r → ∃ f : Bytes,
      (c < 10 ^ 255 →
        f = frameOf s.cfg.keymap [0x46#8, 0x49#8, 0x4E#8]
          [(.operationNumber, dec c), (.amount, dec s.pendingAmount)]) ∧
      exec (.hsRx buf) s = .next
        { s with
          stage := .reserved, opCounter := c, opSeeded := s.opSeeded || isVal opn
          response := some
            { status := if opn = .bad then .ignoredBadValue else .ok, tx := [f], event := .reserveConfirm } }

/-- 43_handshake R128 and R129: the finalize-confirm event acknowledges with IDL and resets the session to Idle, all in
one operation. A counter of more than 255 digits has no `Frame`, and nothing is said of the message's bytes (log entry
17). -/
def Obligations.FinalizeConfirmEvent : Prop :=
  ∀ (s : State) (r : RecordSet) (c : Nat) (opn : Field), s.fault = false → s.booted = true → s.stage = .reserved →
    recGet r .messageName = some [0x46#8, 0x49#8, 0x4E#8] →
    fieldUint r .amount s.cfg.wAmt = .val s.pendingAmount →
    opn = (if s.opSeeded then .absent else fieldUint r .operationNumber s.cfg.wOp) →
    (opn = .bad → s.cfg.badFieldPolicy = .ignore) →
    c = (match opn with | .val q => q | _ => s.opCounter) →
    ∀ buf, frameDecode s.cfg buf = .ok r → ∃ f : Bytes,
      (c < 10 ^ 255 → f = frameOf s.cfg.keymap [0x49#8, 0x44#8, 0x4C#8] [(.operationNumber, dec c)]) ∧
      exec (.hsRx buf) s = .next
        { s with
          stage := .idle, pendingAmount := 0, opCounter := c, opSeeded := s.opSeeded || isVal opn
          response := some
            { status := if opn = .bad then .ignoredBadValue else .ok, tx := [f], event := .finalizeConfirm } }

/-- 43_handshake R130 and R132, the rows that fire no event: where lines 9 to 13 of R123 abort nothing and none of the
three events is matched in the present stage, HS.RX seeds at most, and emits nothing; but for Finalized, which no run
shows: it is left for Idle, with the IDL message (a counter of more than 255 digits: log entry 17). -/
def Obligations.UnmatchedMessageMakesNoTransition : Prop :=
  ∀ (s : State) (r : RecordSet) (buf : Bytes) (name : Option Bytes) (opn amt : Field) (hs : Bool) (c : Nat)
    (st : Status),
    s.fault = false → s.booted = true → frameDecode s.cfg buf = .ok r → name = recGet r .messageName →
    hs = decide (name = some nameSTA ∨ name = some nameVRP ∨ name = some nameFIN) →
    opn = (if s.opSeeded then .absent else fieldUint r .operationNumber s.cfg.wOp) →
    amt = fieldUint r .amount s.cfg.wAmt →
    (s.cfg.badFieldPolicy = .abort → opn ≠ .bad ∧ (hs = true → ∃ v, amt = .val v)) →
    ¬ (name = some nameSTA ∧ s.stage = .idle ∧ ∃ v, amt = .val v) →
    ¬ (name = some nameVRP ∧ s.stage = .started ∧ amt = .val s.pendingAmount) →
    ¬ (name = some nameFIN ∧ s.stage = .reserved ∧ amt = .val s.pendingAmount) →
    c = (match opn with | .val q => q | _ => s.opCounter) →
    st = (if hs = true ∧ amt = .absent then .ignoredNoAmount
      else if (hs = true ∧ amt = .bad) ∨ opn = .bad then .ignoredBadValue else .ok) →
    (s.stage ≠ .finalized →
      exec (.hsRx buf) s = .next
        { s with opCounter := c, opSeeded := s.opSeeded || isVal opn, response := some { status := st } }) ∧
    (s.stage = .finalized → ∃ f : Bytes,
      (c < 10 ^ 255 → f = frameOf s.cfg.keymap nameIDL [(.operationNumber, dec c)]) ∧
      exec (.hsRx buf) s = .next
        { s with
          stage := .idle, pendingAmount := 0, opCounter := c, opSeeded := s.opSeeded || isVal opn
          response := some { status := st, tx := [f] } })

/-- 43_handshake R125 and the row MSG.IDL (log entry 9; 30_encoding R74): a message named "IDL" is compared with
nothing; it completes in every stage a run reaches, seeds once, and makes no transition. -/
def Obligations.IdleMessageOnlySeeds : Prop :=
  ∀ (s : State) (r : RecordSet) (opn : Field), s.fault = false → s.booted = true → s.stage ≠ .finalized →
    RecordSet.Ok r →
    opn = (if s.opSeeded then .absent else fieldUint r .operationNumber s.cfg.wOp) →
    (opn = .bad → s.cfg.badFieldPolicy = .ignore) →
    exec (.msgIdl r) s = .next
      { s with
        opCounter := (match opn with | .val q => q | _ => s.opCounter)
        opSeeded := s.opSeeded || isVal opn
        response := some { status := if opn = .bad then .ignoredBadValue else .ok } }

/-- The rows MSG.STA, MSG.VRP and MSG.FIN (log entry 9) complete the event of their name (43_handshake R126 to R129)
for every record set, whatever name it holds: the row's name replaces it. A counter of more than 255 digits has no
`Frame`, and nothing is said of the message's bytes (log entry 17). -/
def Obligations.MessageRowsCompleteTheirEvents : Prop :=
  ∀ (s : State) (r : RecordSet) (v c : Nat) (opn : Field), s.fault = false → s.booted = true → RecordSet.Ok r →
    fieldUint r .amount s.cfg.wAmt = .val v →
    opn = (if s.opSeeded then .absent else fieldUint r .operationNumber s.cfg.wOp) →
    (opn = .bad → s.cfg.badFieldPolicy = .ignore) →
    c = (match opn with | .val q => q | _ => s.opCounter) →
    ∀ st : Status, st = (if opn = .bad then .ignoredBadValue else .ok) →
    (s.stage = .idle → c ≠ 2 ^ s.cfg.wOp - 1 → ∃ f : Bytes,
      (c + 1 < 10 ^ 255 →
        f = frameOf s.cfg.keymap nameVRP [(.operationNumber, dec (c + 1)), (.amount, dec v)]) ∧
      exec (.msgSta r) s = .next
        { s with
          stage := .started, pendingAmount := v, opCounter := c + 1, opSeeded := true
          response := some { status := st, tx := [f], event := .start } }) ∧
    (s.stage = .started → v = s.pendingAmount → ∃ f : Bytes,
      (c < 10 ^ 255 → f = frameOf s.cfg.keymap nameFIN [(.operationNumber, dec c), (.amount, dec v)]) ∧
      exec (.msgVrp r) s = .next
        { s with
          stage := .reserved, opCounter := c, opSeeded := s.opSeeded || isVal opn
          response := some { status := st, tx := [f], event := .reserveConfirm } }) ∧
    (s.stage = .reserved → v = s.pendingAmount → ∃ f : Bytes,
      (c < 10 ^ 255 → f = frameOf s.cfg.keymap nameIDL [(.operationNumber, dec c)]) ∧
      exec (.msgFin r) s = .next
        { s with
          stage := .idle, pendingAmount := 0, opCounter := c, opSeeded := s.opSeeded || isVal opn
          response := some { status := st, tx := [f], event := .finalizeConfirm } })

/-- The message rows are the message half of HS.RX (log entry 9): whatever buffer decodes to a record set with that
name, HS.RX of the buffer and the row of the record set do the same, in every state. -/
def Obligations.MessageRowsAreHandshakeReceive : Prop :=
  ∀ (s : State) (buf : Bytes) (r : RecordSet), frameDecode s.cfg buf = .ok r →
    (recGet r .messageName = some nameSTA → exec (.hsRx buf) s = exec (.msgSta r) s) ∧
    (recGet r .messageName = some nameVRP → exec (.hsRx buf) s = exec (.msgVrp r) s) ∧
    (recGet r .messageName = some nameFIN → exec (.hsRx buf) s = exec (.msgFin r) s) ∧
    (recGet r .messageName = some nameIDL → exec (.hsRx buf) s = exec (.msgIdl r) s)

/-- 43_handshake R123 lines 9 to 13, 60_exceptions R152 and R160: when HS.RX aborts, with which cause, in the order
tested, and when it does not; the abort writes `fault` and `fault_cause` and nothing else. -/
def Obligations.AbortEntry : Prop :=
  ∀ (s : State) (r : RecordSet) (buf : Bytes) (name : Option Bytes) (opn amt : Field) (hs : Prop),
    s.fault = false → s.booted = true → frameDecode s.cfg buf = .ok r → name = recGet r .messageName →
    opn = (if s.opSeeded then .absent else fieldUint r .operationNumber s.cfg.wOp) →
    amt = fieldUint r .amount s.cfg.wAmt →
    (hs ↔ name = some nameSTA ∨ name = some nameVRP ∨ name = some nameFIN) →
    ∀ (a : FaultCause → State) (overflow : Prop), (∀ c, a c =
      { s with fault := true, faultCause := c, response := some { status := .aborted } }) →
    (overflow ↔ name = some nameSTA ∧ s.stage = .idle ∧ (∃ v, amt = .val v) ∧
      (match opn with | .val q => q | _ => s.opCounter) = 2 ^ s.cfg.wOp - 1) →
    (s.cfg.badFieldPolicy = .abort → opn = .bad → exec (.hsRx buf) s = .next (a .opnumUnparseable)) ∧
    (s.cfg.badFieldPolicy = .abort → opn ≠ .bad → hs → amt = .bad →
      exec (.hsRx buf) s = .next (a .amountUnparseable)) ∧
    (s.cfg.badFieldPolicy = .abort → opn ≠ .bad → hs → amt = .absent →
      exec (.hsRx buf) s = .next (a .amountAbsent)) ∧
    ((opn = .bad → s.cfg.badFieldPolicy = .ignore) → overflow →
      exec (.hsRx buf) s = .next (a .opCounterOverflow)) ∧
    ∃ t, exec (.hsRx buf) s = .next t ∧
      (t.fault = true ↔
        (s.cfg.badFieldPolicy = .abort ∧ (opn = .bad ∨ (hs ∧ (amt = .bad ∨ amt = .absent)))) ∨ overflow)

/-- 43_handshake R124, policy `ignore`: HS.RX aborts exactly where a start event would overflow the counter (R123 line
13), and no field aborts; otherwise the status names what was ignored, the last applicable line of R123 standing. -/
def Obligations.IgnorePolicyReportsAndContinues : Prop :=
  ∀ (s : State) (r : RecordSet) (buf : Bytes) (hs : Bool) (opn amt : Field),
    s.fault = false → s.booted = true → s.cfg.badFieldPolicy = .ignore → frameDecode s.cfg buf = .ok r →
    hs = decide (recGet r .messageName = some nameSTA ∨ recGet r .messageName = some nameVRP ∨
      recGet r .messageName = some nameFIN) →
    opn = (if s.opSeeded then .absent else fieldUint r .operationNumber s.cfg.wOp) →
    amt = fieldUint r .amount s.cfg.wAmt →
    ∃ t o, exec (.hsRx buf) s = .next t ∧ t.response = some o ∧
      (t.fault = true ↔ recGet r .messageName = some nameSTA ∧ s.stage = .idle ∧ (∃ v, amt = .val v) ∧
        (match opn with | .val q => q | _ => s.opCounter) = 2 ^ s.cfg.wOp - 1) ∧
      (t.fault = true →
        t = { s with fault := true, faultCause := .opCounterOverflow, response := some { status := .aborted } }) ∧
      (t.fault = false →
        o.status =
          if hs = true ∧ amt = .absent then .ignoredNoAmount
          else if (hs = true ∧ amt = .bad) ∨ opn = .bad then .ignoredBadValue
          else .ok)

/-- 43_handshake R123 line 3: a buffer FRM.DEC rejects is no message: HS.RX returns that status, changes nothing and
emits nothing. -/
def Obligations.RejectedBufferIsNoMessage : Prop :=
  ∀ (s : State) (buf : Bytes) (st : Status), s.fault = false → s.booted = true →
    exec (.frmDec buf) s = .next { s with response := some { status := st } } → st ≠ .ok →
    exec (.hsRx buf) s = .next { s with response := some { status := st } }

/-- The frame of the HS operations and of the message rows: `crc` and the configuration are never written, and each
operation writes only the registers its rule names (43_handshake R122, R123, R131). -/
def Obligations.HandshakeFrame : Prop :=
  ∀ (s t : State) (i : Instr), exec i s = .next t →
    ((∃ now, i = .hsBoot now) → t = { s with booted := t.booted, lastIdl := t.lastIdl, response := t.response }) ∧
    ((∃ now, i = .hsTick now) → t = { s with lastIdl := t.lastIdl, response := t.response }) ∧
    ((∃ buf, i = .hsRx buf) ∨ (∃ r, i = .msgSta r ∨ i = .msgVrp r ∨ i = .msgFin r ∨ i = .msgIdl r) →
      t = { s with
        stage := t.stage, pendingAmount := t.pendingAmount, opCounter := t.opCounter, opSeeded := t.opSeeded,
        fault := t.fault, faultCause := t.faultCause, response := t.response })

/-! ### Numbers as text -/

/-- 30_encoding R72: `dec` is the decimal numeral, most significant digit first, ASCII digits only, no leading zero,
`dec(0) = "0"`; its length is bounded by the number of decimal digits. With R73: it parses back to the number at every
width that holds it, and to Bad at every narrower one. -/
def Obligations.DecimalTextRoundTrip : Prop :=
  ∀ (v w : Nat),
    (0 < v → dec v = (Nat.digits 10 v).reverse.map (fun d => BitVec.ofNat 8 (0x30 + d))) ∧
    dec 0 = [0x30#8] ∧
    (0 < v → (dec v).head? ≠ some 0x30#8) ∧
    (∀ n, 0 < n → v < 10 ^ n → 0 < (dec v).length ∧ (dec v).length ≤ n) ∧
    parseUint (dec v) w = (if v < 2 ^ w then .val v else .bad)

/-- 30_encoding R73: `parse_uint` is `Val v` exactly for one or more digits whose decimal value `v` is below `2^W`, Bad
for everything else; leading zeros do not count; `field_uint` is Absent for an absent key, else `parse_uint` of the
value. -/
def Obligations.ParseGrammar : Prop :=
  ∀ (b : Bytes) (w : Nat),
    (∀ v, v = Nat.ofDigits 10 (b.reverse.map (fun d => d.toNat - 0x30)) →
      parseUint b w =
        if b ≠ [] ∧ (∀ d ∈ b, 0x30 ≤ d.toNat ∧ d.toNat ≤ 0x39) ∧ v < 2 ^ w then .val v else .bad) ∧
    (b ≠ [] → parseUint (0x30#8 :: b) w = parseUint b w) ∧
    (∀ (r : RecordSet) (k : TlvKey), recGet r k = none → fieldUint r k w = .absent) ∧
    (∀ (r : RecordSet) (k : TlvKey), recGet r k = some b → fieldUint r k w = parseUint b w)

/-! ### The whole machine -/

/-- 60_exceptions R161: with `fault` set every operation and wire row but RESET and HS.STATUS returns FAULTED, changes no
register and emits nothing, whatever its operands. -/
def Obligations.FaultedBlockRefuses : Prop :=
  ∀ (i : Instr) (s : State), s.fault = true → i ≠ .reset → i ≠ .hsStatus →
    exec i s = .next { s with response := some { status := .faulted } }

/-- 60_exceptions R162: no operation but RESET clears `fault` or changes `fault_cause` once set, and only the receive of
a message sets it. -/
def Obligations.FaultIsSticky : Prop :=
  ∀ (i : Instr) (s t : State), exec i s = .next t → i ≠ .reset →
    (s.fault = true → t.fault = true ∧ t.faultCause = s.faultCause) ∧
    (s.fault = false → t.fault = true →
      (∃ buf, i = .hsRx buf) ∨ ∃ r, i = .msgSta r ∨ i = .msgVrp r ∨ i = .msgFin r ∨ i = .msgIdl r)

/-- 10_state R37 (a), (b), (d), (e), with the register widths of R20: every step keeps the invariant, whatever the host
presents (the inference is marked as the spec's own; widths as bounds are the model's, log entry 3). -/
def Obligations.StepKeepsTheInvariant : Prop :=
  ∀ s t : State, s.Inv → step s = .next t → t.Inv

/-- The invariant holds after reset, in every configuration of the spec. -/
def Obligations.ResetMeetsTheInvariant : Prop :=
  State.reset.Inv ∧ ∀ c : Config, c.Valid → (State.resetWith c).Inv

/-- 10_state R37 (c), R24: no operation but RESET decreases a seeded counter, only the start event increases it, by one,
and a seeded block stays seeded. -/
def Obligations.OperationCounterNeverDecreases : Prop :=
  ∀ (i : Instr) (s t : State), exec i s = .next t → i ≠ .reset → s.opSeeded = true →
    t.opSeeded = true ∧ (t.opCounter = s.opCounter ∨
      (t.opCounter = s.opCounter + 1 ∧ s.stage = .idle ∧ t.stage = .started))

/-- 44_system R144: the complete list of writes of `stage` an operation can make, and which operations make them. -/
def Obligations.StageWritesAreListed : Prop :=
  ∀ (i : Instr) (s t : State), exec i s = .next t → s.stage ≠ .finalized → t.stage ≠ s.stage →
    (i = .reset ∧ t.stage = .idle) ∨
    (((∃ buf, i = .hsRx buf) ∨ ∃ r, i = .msgSta r ∨ i = .msgVrp r ∨ i = .msgFin r) ∧
      ((s.stage = .idle ∧ t.stage = .started) ∨ (s.stage = .started ∧ t.stage = .reserved) ∨
        (s.stage = .reserved ∧ t.stage = .idle)))

/-- 20_memory R53, 43_handshake R130, 42_frame R117: from a state that meets the invariant every operation emits at most
one frame, and every emitted frame is well formed where the counter it carries has at most 255 digits, as it has at
every W_OP up to 847 (log entry 17); the message rows are log entry 9. -/
def Obligations.EmittedFramesAreWellFormed : Prop :=
  ∀ (i : Instr) (s t : State) (o : Response), s.Inv → exec i s = .next t → t.response = some o →
    o.tx.length ≤ 1 ∧ (t.opCounter < 10 ^ 255 → ∀ f ∈ o.tx, FrameOk f) ∧
    (s.cfg.wOp ≤ 847 → t.opCounter < 10 ^ 255)

/-- 60_exceptions R151, 70_reset R191: every operation completes in every state, with a status of its own row: BAD_LENGTH
and CHECKSUM_MISMATCH only in hardened mode, the IGNORED statuses only under policy `ignore`; and every step answers a
next state, whatever is presented. -/
def Obligations.EveryOperationCompletes : Prop :=
  (∀ (i : Instr) (s : State), ∃ t o, exec i s = .next t ∧ t.response = some o ∧ o.status ∈ statusesOf i ∧
    (o.status = .badLength ∨ o.status = .checksumMismatch → s.cfg.rxCrcCheck = .on) ∧
    (o.status = .ignoredNoAmount ∨ o.status = .ignoredBadValue → s.cfg.badFieldPolicy = .ignore)) ∧
  (∀ s : State, ∃ t, step s = .next t)

/-- 44_system R142: HS.CYCLE is HS.TICK, then HS.RX where a buffer was delivered (the sends, the receive and the sleep
are the host's, log entry 14). -/
def Obligations.CycleIsTickThenReceive : Prop :=
  ∀ (s t : State) (now : Nat) (buf : Bytes), s.pending = hsCycle now (some buf) →
    exec (.hsTick now) { s with pending := hsCycle now (some buf) |>.drop 1 } = .next t →
    step s = .next t ∧ step t = exec (.hsRx buf) { t with pending := [] }
end

