-- ==== Sys2Proof/Laws/Crc.lean ====
section
/-!
SUPPORT. The Checksum Engine: one step on the halves of the register, and the entry that makes the residue zero.
-/

namespace Sys2Proof.Machine

theorem crcTable_zero : crcTable 0#8 = 0#16 := rfl

@[simp] theorem crc16_nil : crc16 [] = 0xFFFF#16 := rfl

theorem crc16_append (a b : Bytes) : crc16 (a ++ b) = b.foldl crcStep (crc16 a) := by
  simp [crc16]

/-- A byte equal to the register's high byte selects entry 0x00: the step is the shift alone. -/
theorem crcStep_hi8 (reg : Word16) : crcStep reg (hi8 reg) = reg <<< 8 := by
  simp [crcStep, crcTable_zero]

theorem hi8_shift (reg : Word16) : hi8 (reg <<< 8) = lo8 reg := by
  ext i hi
  simp [hi8, lo8]
  omega

theorem shift_shift (reg : Word16) : reg <<< 8 <<< 8 = 0#16 := by
  ext i hi
  simp

@[simp] theorem be16_halves (v : Word16) : be16 (hi8 v) (lo8 v) = v := by
  have h := v.isLt
  apply BitVec.eq_of_toNat_eq
  simp only [be16, hi8, lo8, BitVec.toNat_append, BitVec.extractLsb'_toNat, Nat.shiftLeft_eq, Nat.shiftRight_eq_div_pow]
  rw [Nat.mul_comm, ← Nat.two_pow_add_eq_or_of_lt (by omega)]
  omega

theorem be16_toNat (hi lo : Byte) : (be16 hi lo).toNat = hi.toNat * 256 + lo.toNat := by
  simp only [be16, BitVec.toNat_append, Nat.shiftLeft_eq]
  rw [Nat.mul_comm, ← Nat.two_pow_add_eq_or_of_lt lo.isLt]

end Sys2Proof.Machine
end

