-- ==== Sys2Proof/Laws/State.lean ====
section
/-!
SUPPORT. One lemma per field of State and update, and the fields of the reset state.
-/

namespace Sys2Proof.Machine

/-! ### State.respond -/

@[simp] theorem State.respond_crc (s : State) (r : Response) : (s.respond r).crc = s.crc := rfl
@[simp] theorem State.respond_stage (s : State) (r : Response) : (s.respond r).stage = s.stage := rfl
@[simp] theorem State.respond_pendingAmount (s : State) (r : Response) : (s.respond r).pendingAmount = s.pendingAmount := rfl
@[simp] theorem State.respond_opCounter (s : State) (r : Response) : (s.respond r).opCounter = s.opCounter := rfl
@[simp] theorem State.respond_opSeeded (s : State) (r : Response) : (s.respond r).opSeeded = s.opSeeded := rfl
@[simp] theorem State.respond_booted (s : State) (r : Response) : (s.respond r).booted = s.booted := rfl
@[simp] theorem State.respond_lastIdl (s : State) (r : Response) : (s.respond r).lastIdl = s.lastIdl := rfl
@[simp] theorem State.respond_fault (s : State) (r : Response) : (s.respond r).fault = s.fault := rfl
@[simp] theorem State.respond_faultCause (s : State) (r : Response) : (s.respond r).faultCause = s.faultCause := rfl
@[simp] theorem State.respond_cfg (s : State) (r : Response) : (s.respond r).cfg = s.cfg := rfl
@[simp] theorem State.respond_pending (s : State) (r : Response) : (s.respond r).pending = s.pending := rfl
@[simp] theorem State.respond_response (s : State) (r : Response) : (s.respond r).response = some r := rfl

/-! ### State.raise -/

@[simp] theorem State.raise_crc (s : State) (st : Status) : (s.raise st).crc = s.crc := rfl
@[simp] theorem State.raise_stage (s : State) (st : Status) : (s.raise st).stage = s.stage := rfl
@[simp] theorem State.raise_pendingAmount (s : State) (st : Status) : (s.raise st).pendingAmount = s.pendingAmount := rfl
@[simp] theorem State.raise_opCounter (s : State) (st : Status) : (s.raise st).opCounter = s.opCounter := rfl
@[simp] theorem State.raise_opSeeded (s : State) (st : Status) : (s.raise st).opSeeded = s.opSeeded := rfl
@[simp] theorem State.raise_booted (s : State) (st : Status) : (s.raise st).booted = s.booted := rfl
@[simp] theorem State.raise_lastIdl (s : State) (st : Status) : (s.raise st).lastIdl = s.lastIdl := rfl
@[simp] theorem State.raise_fault (s : State) (st : Status) : (s.raise st).fault = s.fault := rfl
@[simp] theorem State.raise_faultCause (s : State) (st : Status) : (s.raise st).faultCause = s.faultCause := rfl
@[simp] theorem State.raise_cfg (s : State) (st : Status) : (s.raise st).cfg = s.cfg := rfl
@[simp] theorem State.raise_pending (s : State) (st : Status) : (s.raise st).pending = s.pending := rfl
@[simp] theorem State.raise_response (s : State) (st : Status) : (s.raise st).response = some { status := st } := rfl

/-! ### State.abort -/

@[simp] theorem State.abort_crc (s : State) (c : FaultCause) : (s.abort c).crc = s.crc := rfl
@[simp] theorem State.abort_stage (s : State) (c : FaultCause) : (s.abort c).stage = s.stage := rfl
@[simp] theorem State.abort_pendingAmount (s : State) (c : FaultCause) : (s.abort c).pendingAmount = s.pendingAmount := rfl
@[simp] theorem State.abort_opCounter (s : State) (c : FaultCause) : (s.abort c).opCounter = s.opCounter := rfl
@[simp] theorem State.abort_opSeeded (s : State) (c : FaultCause) : (s.abort c).opSeeded = s.opSeeded := rfl
@[simp] theorem State.abort_booted (s : State) (c : FaultCause) : (s.abort c).booted = s.booted := rfl
@[simp] theorem State.abort_lastIdl (s : State) (c : FaultCause) : (s.abort c).lastIdl = s.lastIdl := rfl
@[simp] theorem State.abort_fault (s : State) (c : FaultCause) : (s.abort c).fault = true := rfl
@[simp] theorem State.abort_faultCause (s : State) (c : FaultCause) : (s.abort c).faultCause = c := rfl
@[simp] theorem State.abort_cfg (s : State) (c : FaultCause) : (s.abort c).cfg = s.cfg := rfl
@[simp] theorem State.abort_pending (s : State) (c : FaultCause) : (s.abort c).pending = s.pending := rfl
@[simp] theorem State.abort_response (s : State) (c : FaultCause) : (s.abort c).response = some { status := .aborted } := rfl

/-! ### State.resetRegisters -/

@[simp] theorem State.resetRegisters_crc (s : State) : (s.resetRegisters).crc = 0xFFFF#16 := rfl
@[simp] theorem State.resetRegisters_stage (s : State) : (s.resetRegisters).stage = .idle := rfl
@[simp] theorem State.resetRegisters_pendingAmount (s : State) : (s.resetRegisters).pendingAmount = 0 := rfl
@[simp] theorem State.resetRegisters_opCounter (s : State) : (s.resetRegisters).opCounter = 0 := rfl
@[simp] theorem State.resetRegisters_opSeeded (s : State) : (s.resetRegisters).opSeeded = false := rfl
@[simp] theorem State.resetRegisters_booted (s : State) : (s.resetRegisters).booted = false := rfl
@[simp] theorem State.resetRegisters_lastIdl (s : State) : (s.resetRegisters).lastIdl = 0 := rfl
@[simp] theorem State.resetRegisters_fault (s : State) : (s.resetRegisters).fault = false := rfl
@[simp] theorem State.resetRegisters_faultCause (s : State) : (s.resetRegisters).faultCause = .none := rfl
@[simp] theorem State.resetRegisters_cfg (s : State) : (s.resetRegisters).cfg = s.cfg := rfl
@[simp] theorem State.resetRegisters_pending (s : State) : (s.resetRegisters).pending = s.pending := rfl
@[simp] theorem State.resetRegisters_response (s : State) : (s.resetRegisters).response = s.response := rfl

/-! ### State.setCrc -/

@[simp] theorem State.setCrc_crc (s : State) (c : Word16) : (s.setCrc c).crc = c := rfl
@[simp] theorem State.setCrc_stage (s : State) (c : Word16) : (s.setCrc c).stage = s.stage := rfl
@[simp] theorem State.setCrc_pendingAmount (s : State) (c : Word16) : (s.setCrc c).pendingAmount = s.pendingAmount := rfl
@[simp] theorem State.setCrc_opCounter (s : State) (c : Word16) : (s.setCrc c).opCounter = s.opCounter := rfl
@[simp] theorem State.setCrc_opSeeded (s : State) (c : Word16) : (s.setCrc c).opSeeded = s.opSeeded := rfl
@[simp] theorem State.setCrc_booted (s : State) (c : Word16) : (s.setCrc c).booted = s.booted := rfl
@[simp] theorem State.setCrc_lastIdl (s : State) (c : Word16) : (s.setCrc c).lastIdl = s.lastIdl := rfl
@[simp] theorem State.setCrc_fault (s : State) (c : Word16) : (s.setCrc c).fault = s.fault := rfl
@[simp] theorem State.setCrc_faultCause (s : State) (c : Word16) : (s.setCrc c).faultCause = s.faultCause := rfl
@[simp] theorem State.setCrc_cfg (s : State) (c : Word16) : (s.setCrc c).cfg = s.cfg := rfl
@[simp] theorem State.setCrc_pending (s : State) (c : Word16) : (s.setCrc c).pending = s.pending := rfl
@[simp] theorem State.setCrc_response (s : State) (c : Word16) : (s.setCrc c).response = s.response := rfl

/-! ### State.boot -/

@[simp] theorem State.boot_crc (s : State) (now : Nat) : (s.boot now).crc = s.crc := rfl
@[simp] theorem State.boot_stage (s : State) (now : Nat) : (s.boot now).stage = s.stage := rfl
@[simp] theorem State.boot_pendingAmount (s : State) (now : Nat) : (s.boot now).pendingAmount = s.pendingAmount := rfl
@[simp] theorem State.boot_opCounter (s : State) (now : Nat) : (s.boot now).opCounter = s.opCounter := rfl
@[simp] theorem State.boot_opSeeded (s : State) (now : Nat) : (s.boot now).opSeeded = s.opSeeded := rfl
@[simp] theorem State.boot_booted (s : State) (now : Nat) : (s.boot now).booted = true := rfl
@[simp] theorem State.boot_lastIdl (s : State) (now : Nat) : (s.boot now).lastIdl = now := rfl
@[simp] theorem State.boot_fault (s : State) (now : Nat) : (s.boot now).fault = s.fault := rfl
@[simp] theorem State.boot_faultCause (s : State) (now : Nat) : (s.boot now).faultCause = s.faultCause := rfl
@[simp] theorem State.boot_cfg (s : State) (now : Nat) : (s.boot now).cfg = s.cfg := rfl
@[simp] theorem State.boot_pending (s : State) (now : Nat) : (s.boot now).pending = s.pending := rfl
@[simp] theorem State.boot_response (s : State) (now : Nat) : (s.boot now).response = s.response := rfl

/-! ### State.setLastIdl -/

@[simp] theorem State.setLastIdl_crc (s : State) (now : Nat) : (s.setLastIdl now).crc = s.crc := rfl
@[simp] theorem State.setLastIdl_stage (s : State) (now : Nat) : (s.setLastIdl now).stage = s.stage := rfl
@[simp] theorem State.setLastIdl_pendingAmount (s : State) (now : Nat) : (s.setLastIdl now).pendingAmount = s.pendingAmount := rfl
@[simp] theorem State.setLastIdl_opCounter (s : State) (now : Nat) : (s.setLastIdl now).opCounter = s.opCounter := rfl
@[simp] theorem State.setLastIdl_opSeeded (s : State) (now : Nat) : (s.setLastIdl now).opSeeded = s.opSeeded := rfl
@[simp] theorem State.setLastIdl_booted (s : State) (now : Nat) : (s.setLastIdl now).booted = s.booted := rfl
@[simp] theorem State.setLastIdl_lastIdl (s : State) (now : Nat) : (s.setLastIdl now).lastIdl = now := rfl
@[simp] theorem State.setLastIdl_fault (s : State) (now : Nat) : (s.setLastIdl now).fault = s.fault := rfl
@[simp] theorem State.setLastIdl_faultCause (s : State) (now : Nat) : (s.setLastIdl now).faultCause = s.faultCause := rfl
@[simp] theorem State.setLastIdl_cfg (s : State) (now : Nat) : (s.setLastIdl now).cfg = s.cfg := rfl
@[simp] theorem State.setLastIdl_pending (s : State) (now : Nat) : (s.setLastIdl now).pending = s.pending := rfl
@[simp] theorem State.setLastIdl_response (s : State) (now : Nat) : (s.setLastIdl now).response = s.response := rfl

/-! ### State.seed -/

@[simp] theorem State.seed_crc (s : State) (q : Nat) : (s.seed q).crc = s.crc := rfl
@[simp] theorem State.seed_stage (s : State) (q : Nat) : (s.seed q).stage = s.stage := rfl
@[simp] theorem State.seed_pendingAmount (s : State) (q : Nat) : (s.seed q).pendingAmount = s.pendingAmount := rfl
@[simp] theorem State.seed_opCounter (s : State) (q : Nat) : (s.seed q).opCounter = q := rfl
@[simp] theorem State.seed_opSeeded (s : State) (q : Nat) : (s.seed q).opSeeded = true := rfl
@[simp] theorem State.seed_booted (s : State) (q : Nat) : (s.seed q).booted = s.booted := rfl
@[simp] theorem State.seed_lastIdl (s : State) (q : Nat) : (s.seed q).lastIdl = s.lastIdl := rfl
@[simp] theorem State.seed_fault (s : State) (q : Nat) : (s.seed q).fault = s.fault := rfl
@[simp] theorem State.seed_faultCause (s : State) (q : Nat) : (s.seed q).faultCause = s.faultCause := rfl
@[simp] theorem State.seed_cfg (s : State) (q : Nat) : (s.seed q).cfg = s.cfg := rfl
@[simp] theorem State.seed_pending (s : State) (q : Nat) : (s.seed q).pending = s.pending := rfl
@[simp] theorem State.seed_response (s : State) (q : Nat) : (s.seed q).response = s.response := rfl

/-! ### State.start -/

@[simp] theorem State.start_crc (s : State) (v : Nat) : (s.start v).crc = s.crc := rfl
@[simp] theorem State.start_stage (s : State) (v : Nat) : (s.start v).stage = .started := rfl
@[simp] theorem State.start_pendingAmount (s : State) (v : Nat) : (s.start v).pendingAmount = v := rfl
@[simp] theorem State.start_opCounter (s : State) (v : Nat) : (s.start v).opCounter = s.opCounter + 1 := rfl
@[simp] theorem State.start_opSeeded (s : State) (v : Nat) : (s.start v).opSeeded = true := rfl
@[simp] theorem State.start_booted (s : State) (v : Nat) : (s.start v).booted = s.booted := rfl
@[simp] theorem State.start_lastIdl (s : State) (v : Nat) : (s.start v).lastIdl = s.lastIdl := rfl
@[simp] theorem State.start_fault (s : State) (v : Nat) : (s.start v).fault = s.fault := rfl
@[simp] theorem State.start_faultCause (s : State) (v : Nat) : (s.start v).faultCause = s.faultCause := rfl
@[simp] theorem State.start_cfg (s : State) (v : Nat) : (s.start v).cfg = s.cfg := rfl
@[simp] theorem State.start_pending (s : State) (v : Nat) : (s.start v).pending = s.pending := rfl
@[simp] theorem State.start_response (s : State) (v : Nat) : (s.start v).response = s.response := rfl

/-! ### State.setStage -/

@[simp] theorem State.setStage_crc (s : State) (g : Stage) : (s.setStage g).crc = s.crc := rfl
@[simp] theorem State.setStage_stage (s : State) (g : Stage) : (s.setStage g).stage = g := rfl
@[simp] theorem State.setStage_pendingAmount (s : State) (g : Stage) : (s.setStage g).pendingAmount = s.pendingAmount := rfl
@[simp] theorem State.setStage_opCounter (s : State) (g : Stage) : (s.setStage g).opCounter = s.opCounter := rfl
@[simp] theorem State.setStage_opSeeded (s : State) (g : Stage) : (s.setStage g).opSeeded = s.opSeeded := rfl
@[simp] theorem State.setStage_booted (s : State) (g : Stage) : (s.setStage g).booted = s.booted := rfl
@[simp] theorem State.setStage_lastIdl (s : State) (g : Stage) : (s.setStage g).lastIdl = s.lastIdl := rfl
@[simp] theorem State.setStage_fault (s : State) (g : Stage) : (s.setStage g).fault = s.fault := rfl
@[simp] theorem State.setStage_faultCause (s : State) (g : Stage) : (s.setStage g).faultCause = s.faultCause := rfl
@[simp] theorem State.setStage_cfg (s : State) (g : Stage) : (s.setStage g).cfg = s.cfg := rfl
@[simp] theorem State.setStage_pending (s : State) (g : Stage) : (s.setStage g).pending = s.pending := rfl
@[simp] theorem State.setStage_response (s : State) (g : Stage) : (s.setStage g).response = s.response := rfl

/-! ### State.endSession -/

@[simp] theorem State.endSession_crc (s : State) : (s.endSession).crc = s.crc := rfl
@[simp] theorem State.endSession_stage (s : State) : (s.endSession).stage = .idle := rfl
@[simp] theorem State.endSession_pendingAmount (s : State) : (s.endSession).pendingAmount = 0 := rfl
@[simp] theorem State.endSession_opCounter (s : State) : (s.endSession).opCounter = s.opCounter := rfl
@[simp] theorem State.endSession_opSeeded (s : State) : (s.endSession).opSeeded = s.opSeeded := rfl
@[simp] theorem State.endSession_booted (s : State) : (s.endSession).booted = s.booted := rfl
@[simp] theorem State.endSession_lastIdl (s : State) : (s.endSession).lastIdl = s.lastIdl := rfl
@[simp] theorem State.endSession_fault (s : State) : (s.endSession).fault = s.fault := rfl
@[simp] theorem State.endSession_faultCause (s : State) : (s.endSession).faultCause = s.faultCause := rfl
@[simp] theorem State.endSession_cfg (s : State) : (s.endSession).cfg = s.cfg := rfl
@[simp] theorem State.endSession_pending (s : State) : (s.endSession).pending = s.pending := rfl
@[simp] theorem State.endSession_response (s : State) : (s.endSession).response = s.response := rfl

/-! ### State.resetWith -/

@[simp] theorem State.resetWith_crc (c : Config) : (State.resetWith c).crc = 0xFFFF#16 := rfl
@[simp] theorem State.resetWith_stage (c : Config) : (State.resetWith c).stage = .idle := rfl
@[simp] theorem State.resetWith_pendingAmount (c : Config) : (State.resetWith c).pendingAmount = 0 := rfl
@[simp] theorem State.resetWith_opCounter (c : Config) : (State.resetWith c).opCounter = 0 := rfl
@[simp] theorem State.resetWith_opSeeded (c : Config) : (State.resetWith c).opSeeded = false := rfl
@[simp] theorem State.resetWith_booted (c : Config) : (State.resetWith c).booted = false := rfl
@[simp] theorem State.resetWith_lastIdl (c : Config) : (State.resetWith c).lastIdl = 0 := rfl
@[simp] theorem State.resetWith_fault (c : Config) : (State.resetWith c).fault = false := rfl
@[simp] theorem State.resetWith_faultCause (c : Config) : (State.resetWith c).faultCause = .none := rfl
@[simp] theorem State.resetWith_cfg (c : Config) : (State.resetWith c).cfg = c := rfl
@[simp] theorem State.resetWith_pending (c : Config) : (State.resetWith c).pending = [] := rfl
@[simp] theorem State.resetWith_response (c : Config) : (State.resetWith c).response = none := rfl

end Sys2Proof.Machine
end

