-- ==== Sys2Proof/Laws/Flags.lean ====
section
/-!
SUPPORT. The gates, case by case, and the abort tests.
-/

namespace Sys2Proof.Machine

theorem unlessFaulted_of_fault {s : State} (h : s.fault = true) (rest : State) :
    unlessFaulted s rest = s.raise .faulted := by
  simp [unlessFaulted, h]

theorem unlessFaulted_of_ok {s : State} (h : s.fault = false) (rest : State) : unlessFaulted s rest = rest := by
  simp [unlessFaulted, h]

theorem whenBooted_of_fault {s : State} (h : s.fault = true) (rest : State) :
    whenBooted s rest = s.raise .faulted := unlessFaulted_of_fault h _

theorem whenBooted_of_unbooted {s : State} (h : s.fault = false) (hb : s.booted = false) (rest : State) :
    whenBooted s rest = s.raise .notBooted := by
  simp [whenBooted, unlessFaulted, h, hb]

theorem whenBooted_of_booted {s : State} (h : s.fault = false) (hb : s.booted = true) (rest : State) :
    whenBooted s rest = rest := by
  simp [whenBooted, unlessFaulted, h, hb]

/-- What passing a gate leaves: the rest, or a refusal that changes nothing else. -/
theorem unlessFaulted_cases (s rest : State) :
    (s.fault = true ∧ unlessFaulted s rest = s.raise .faulted) ∨
    (s.fault = false ∧ unlessFaulted s rest = rest) := by
  cases h : s.fault
  · exact .inr ⟨rfl, unlessFaulted_of_ok h rest⟩
  · exact .inl ⟨rfl, unlessFaulted_of_fault h rest⟩

theorem whenBooted_cases (s rest : State) :
    (s.fault = true ∧ whenBooted s rest = s.raise .faulted) ∨
    (s.fault = false ∧ s.booted = false ∧ whenBooted s rest = s.raise .notBooted) ∨
    (s.fault = false ∧ s.booted = true ∧ whenBooted s rest = rest) := by
  cases h : s.fault
  · cases hb : s.booted
    · exact .inr (.inl ⟨rfl, rfl, whenBooted_of_unbooted h hb rest⟩)
    · exact .inr (.inr ⟨rfl, rfl, whenBooted_of_booted h hb rest⟩)
  · exact .inl ⟨rfl, whenBooted_of_fault h rest⟩

theorem unlessBooted_cases (s rest : State) :
    (s.fault = true ∧ unlessBooted s rest = s.raise .faulted) ∨
    (s.fault = false ∧ s.booted = true ∧ unlessBooted s rest = s.raise .alreadyBooted) ∨
    (s.fault = false ∧ s.booted = false ∧ unlessBooted s rest = rest) := by
  cases h : s.fault <;> cases hb : s.booted <;> simp [unlessBooted, unlessFaulted, h, hb]

/-- An abort has a cause (60_exceptions R152). -/
theorem abortCause_ne_none {s : State} {name : Option Bytes} {opn amt : Field} {c : FaultCause}
    (h : abortCause s name opn amt = some c) : c ≠ .none := by
  rintro rfl
  unfold abortCause at h
  split_ifs at h <;> simp at h

/-- Without an abort a field that is Bad or missing is one policy `ignore` lets pass, and a start event has room for
its increment (43_handshake R123 lines 9 to 13). -/
theorem abortCause_eq_none {s : State} {name : Option Bytes} {opn amt : Field} :
    abortCause s name opn amt = none ↔
      (opn = .bad → s.cfg.badFieldPolicy = .ignore) ∧
      (isHandshakeName name = true → amt = .bad ∨ amt = .absent → s.cfg.badFieldPolicy = .ignore) ∧
      (name = some nameSTA → s.stage = .idle → isVal amt = true → seededCounter s opn ≠ 2 ^ s.cfg.wOp - 1) := by
  unfold abortCause
  cases s.cfg.badFieldPolicy <;> cases opn <;> cases amt <;> cases isHandshakeName name <;> simp [isVal]

/-- An abort is one of the four of 60_exceptions R152, and each needs what 43_handshake R123 lines 9 to 13 test. -/
theorem abortCause_eq_some {s : State} {name : Option Bytes} {opn amt : Field} {c : FaultCause}
    (h : abortCause s name opn amt = some c) :
    (c = .opnumUnparseable ∧ s.cfg.badFieldPolicy = .abort ∧ opn = .bad) ∨
    (c = .amountUnparseable ∧ s.cfg.badFieldPolicy = .abort ∧ isHandshakeName name = true ∧ amt = .bad) ∨
    (c = .amountAbsent ∧ s.cfg.badFieldPolicy = .abort ∧ isHandshakeName name = true ∧ amt = .absent) ∨
    (c = .opCounterOverflow ∧ name = some nameSTA ∧ s.stage = .idle ∧ isVal amt = true ∧
      seededCounter s opn = 2 ^ s.cfg.wOp - 1) := by
  unfold abortCause at h
  split_ifs at h <;> simp_all

/-- Under policy `ignore` only the counter aborts (43_handshake R124). -/
theorem abortCause_of_ignore {s : State} {name : Option Bytes} {opn amt : Field} {c : FaultCause}
    (hp : s.cfg.badFieldPolicy = .ignore) (h : abortCause s name opn amt = some c) :
    c = .opCounterOverflow ∧ name = some nameSTA ∧ s.stage = .idle ∧ isVal amt = true ∧
      seededCounter s opn = 2 ^ s.cfg.wOp - 1 := by
  rcases abortCause_eq_some h with ⟨_, h, _⟩ | ⟨_, h, _⟩ | ⟨_, h, _⟩ | h
  · simp [hp] at h
  · simp [hp] at h
  · simp [hp] at h
  · exact h

/-- Only policy `ignore` reports an ignored field (43_handshake R123 lines 9 to 11). -/
theorem ignore_of_rxStatus {s : State} {name : Option Bytes} {opn amt : Field} (h : abortCause s name opn amt = none)
    (hst : rxStatus name opn amt ≠ .ok) : s.cfg.badFieldPolicy = .ignore := by
  obtain ⟨h1, h2, -⟩ := abortCause_eq_none.mp h
  unfold rxStatus at hst
  split_ifs at hst with a b c
  · exact h2 a.1 (.inr a.2)
  · exact h2 b.1 (.inl b.2)
  · exact h1 c
  · exact absurd rfl hst

end Sys2Proof.Machine
end

