-- ==== Sys2Proof/Laws/Records.lean ====
section
/-!
SUPPORT. Record sets and KEYMAP: reading after writing a slot, the canonical form, lookups in a valid KEYMAP.
-/

namespace Sys2Proof.Machine

theorem ordinal_injective {k k' : TlvKey} (h : k.ordinal = k'.ordinal) : k = k' := by
  cases k <;> cases k' <;> simp [TlvKey.ordinal] at h ⊢; omega

/-! ### Slots -/

theorem recGet_recSet (r : RecordSet) (k k' : TlvKey) (v : Bytes) :
    recGet (recSet r k v) k' = if k = k' then some v else recGet r k' := by
  induction r with
  | nil => simp [recSet, recGet]
  | cons e r ih =>
    obtain ⟨k₀, v₀⟩ := e
    simp only [recSet]
    by_cases h0 : k = k₀
    · subst h0; by_cases h : k = k' <;> simp [recGet, h]
    · by_cases h1 : k.ordinal < k₀.ordinal
      · simp [recGet, h0, h1]
      · by_cases h : k = k'
        · subst h
          have h2 : ¬ k₀ = k := fun h => h0 h.symm
          simp [recGet, h0, h1, ih, h2]
        · simp [recGet, h0, h1, ih, h]

@[simp] theorem recGet_recSet_self (r : RecordSet) (k : TlvKey) (v : Bytes) : recGet (recSet r k v) k = some v := by
  simp [recGet_recSet]

theorem mem_recSet {r : RecordSet} {k : TlvKey} {v : Bytes} {e : TlvKey × Bytes} (h : e ∈ recSet r k v) :
    e = (k, v) ∨ e ∈ r := by
  induction r with
  | nil => simpa [recSet] using h
  | cons e₀ r ih =>
    obtain ⟨k₀, v₀⟩ := e₀
    simp only [recSet] at h
    split_ifs at h with h0 h1
    · rcases List.mem_cons.mp h with h | h <;> simp [h]
    · rcases List.mem_cons.mp h with h | h <;> simp_all
    · rcases List.mem_cons.mp h with h | h
      · simp [h]
      · rcases ih h with h | h <;> simp [h]

theorem mem_of_recGet {r : RecordSet} {k : TlvKey} {v : Bytes} (h : recGet r k = some v) : (k, v) ∈ r := by
  induction r with
  | nil => simp [recGet] at h
  | cons e r ih =>
    obtain ⟨k₀, v₀⟩ := e
    by_cases h0 : k₀ = k
    · simp_all [recGet]
    · exact List.mem_cons_of_mem _ (ih (by simpa [recGet, h0] using h))

theorem recGet_eq_none_of_forall {r : RecordSet} {k : TlvKey} (h : ∀ e ∈ r, e.1 ≠ k) : recGet r k = none := by
  induction r with
  | nil => rfl
  | cons e r ih =>
    have h0 : e.1 ≠ k := h e (by simp)
    simp [recGet, h0, ih fun e' h' => h e' (by simp [h'])]

theorem recGet_of_mem {r : RecordSet} (hr : RecordSet.Ok r) {k : TlvKey} {v : Bytes} (h : (k, v) ∈ r) :
    recGet r k = some v := by
  obtain ⟨hp, -⟩ := hr
  induction r with
  | nil => simp at h
  | cons e r ih =>
    rw [List.pairwise_cons] at hp
    rcases List.mem_cons.mp h with rfl | h'
    · simp [recGet]
    · have h0 : e.1 ≠ k := fun h0 => by have := hp.1 _ h'; simp [h0] at this
      simp [recGet, h0, ih h' hp.2]

/-! ### The canonical form -/

theorem recSet_ok {r : RecordSet} (hr : RecordSet.Ok r) (k : TlvKey) {v : Bytes} (hv : v.length ≤ 255) :
    RecordSet.Ok (recSet r k v) := by
  refine ⟨?_, fun e he => ?_⟩
  · obtain ⟨hp, -⟩ := hr
    induction r with
    | nil => simp [recSet]
    | cons e r ih =>
      obtain ⟨k₀, v₀⟩ := e
      rw [List.pairwise_cons] at hp
      simp only [recSet]
      split_ifs with h0 h1
      · subst h0; exact List.pairwise_cons.mpr ⟨hp.1, hp.2⟩
      · refine List.pairwise_cons.mpr ⟨fun e he => ?_, List.pairwise_cons.mpr hp⟩
        rcases List.mem_cons.mp he with rfl | he
        · exact h1
        · exact h1.trans (hp.1 e he)
      · refine List.pairwise_cons.mpr ⟨fun e he => ?_, ih hp.2⟩
        rcases mem_recSet he with rfl | he
        · have : k.ordinal ≠ k₀.ordinal := fun h => h0 (ordinal_injective h)
          simp only
          omega
        · exact hp.1 e he
  · rcases mem_recSet he with rfl | he
    · exact hv
    · exact hr.2 e he

theorem recordSet_ext {r r' : RecordSet} (hr : RecordSet.Ok r) (hr' : RecordSet.Ok r')
    (h : ∀ k, recGet r k = recGet r' k) : r = r' := by
  have key : ∀ {a b : RecordSet}, RecordSet.Ok a → (∀ k, recGet a k = recGet b k) → a ⊆ b := fun ha h e he =>
    mem_of_recGet (by rw [← h, recGet_of_mem ha he])
  have nodup : ∀ {a : RecordSet}, RecordSet.Ok a → a.Nodup := fun ha =>
    ha.1.imp fun h he => by simp [he] at h
  have perm : r.Perm r' := (List.perm_ext_iff_of_nodup (nodup hr) (nodup hr')).mpr fun e =>
    ⟨fun he => key hr h he, fun he => key hr' (fun k => (h k).symm) he⟩
  exact perm.eq_of_pairwise (fun a b _ _ h1 h2 => absurd (h1.trans h2) (lt_irrefl _)) hr.1 hr'.1

theorem recSet_eq_self {r : RecordSet} (hr : RecordSet.Ok r) {k : TlvKey} {v : Bytes} (h : recGet r k = some v) :
    recSet r k v = r := by
  refine recordSet_ext (recSet_ok hr k (hr.2 _ (mem_of_recGet h))) hr fun k' => ?_
  rw [recGet_recSet]
  split_ifs with hk
  · rw [← hk, h]
  · rfl

theorem recSet_known {m : KeyMap} {r : RecordSet} (hr : RecordSet.Known m r) {k : TlvKey} {v : Bytes}
    (hk : k ∈ m.map Prod.snd) : RecordSet.Known m (recSet r k v) := fun e he => by
  rcases mem_recSet he with rfl | he
  · exact hk
  · exact hr e he

theorem anyTooLong_eq_true {r : RecordSet} : anyTooLong r = true ↔ ∃ e ∈ r, 255 < e.2.length := by
  simp [anyTooLong]

theorem anyTooLong_of_ok {r : RecordSet} (hr : RecordSet.Ok r) : anyTooLong r = false := by
  simpa [anyTooLong] using fun k v h => hr.2 (k, v) h

/-- Writing a slot with a value that fits keeps every value within 255 bytes. -/
theorem recSet_fits {r : RecordSet} {v : Bytes} (hr : anyTooLong r = false) (hv : v.length ≤ 255) (k : TlvKey) :
    ∀ e ∈ recSet r k v, e.2.length ≤ 255 := fun e he => by
  rcases mem_recSet he with rfl | he
  · exact hv
  · simp [anyTooLong] at hr
    exact hr _ _ he

theorem ok_nil : RecordSet.Ok [] := ⟨List.Pairwise.nil, by simp⟩

theorem known_nil (m : KeyMap) : RecordSet.Known m [] := by simp [RecordSet.Known]

/-! ### Configurations and KEYMAP -/

/-- What a valid configuration is. -/
theorem config_valid_iff {c : Config} : c.Valid ↔
    KeyMap.Valid c.keymap ∧ 0 < c.wAmt ∧ 0 < c.wOp ∧ 0 < c.wTime := by
  simp only [Config.Valid, Config.check, decide_eq_true_eq]

theorem config_keymap_valid {c : Config} (h : c.Valid) : KeyMap.Valid c.keymap := (config_valid_iff.mp h).1

theorem mem_of_keyOf {m : KeyMap} {c : Byte} {k : TlvKey} (h : keyOf m c = some k) : (c, k) ∈ m := by
  induction m with
  | nil => simp [keyOf] at h
  | cons e m ih =>
    obtain ⟨c₀, k₀⟩ := e
    by_cases h0 : c₀ = c
    · simp_all [keyOf]
    · exact List.mem_cons_of_mem _ (ih (by simpa [keyOf, h0] using h))

theorem keyOf_of_mem {m : KeyMap} (hm : KeyMap.Valid m) {c : Byte} {k : TlvKey} (h : (c, k) ∈ m) :
    keyOf m c = some k := by
  have hp := hm.1
  clear hm
  induction m with
  | nil => simp at h
  | cons e m ih =>
    obtain ⟨c₀, k₀⟩ := e
    rw [List.pairwise_cons] at hp
    rcases List.mem_cons.mp h with h | h'
    · simp_all [keyOf]
    · have h0 : c₀ ≠ c := fun h0 => by have := hp.1 _ h'; simp [h0] at this
      simp [keyOf, h0, ih h' hp.2]

theorem keyOf_zero {m : KeyMap} (hm : KeyMap.Valid m) : keyOf m 0#8 = none := by
  cases h : keyOf m 0#8 with
  | none => rfl
  | some k => exact absurd rfl (hm.2.2.1 _ (mem_of_keyOf h))

/-- KEYMAP gives a key one code (41_tlv R100). -/
theorem key_code_unique {m : KeyMap} (hm : KeyMap.Valid m) {c c' : Byte} {k : TlvKey} (h : (c, k) ∈ m)
    (h' : (c', k) ∈ m) : c = c' := by
  have := List.inj_on_of_nodup_map hm.2.1 h h' rfl
  exact congrArg Prod.fst this

theorem named_key_known {m : KeyMap} (hm : KeyMap.Valid m) :
    TlvKey.messageName ∈ m.map Prod.snd ∧ TlvKey.operationNumber ∈ m.map Prod.snd ∧ TlvKey.amount ∈ m.map Prod.snd :=
  ⟨hm.2.2.2 _ (by simp), hm.2.2.2 _ (by simp), hm.2.2.2 _ (by simp)⟩

end Sys2Proof.Machine
end

