-- ==== Sys2Proof/Laws/Tlv.lean ====
section
/-!
SUPPORT. The Record Codec: what a round of TLV.DEC does, whole records, slots never overwritten, the length of a
payload.
-/

namespace Sys2Proof.Machine

/-! ### Records -/

@[simp] theorem recordBytes_length (c : Byte) (v : Bytes) : (recordBytes c v).length = v.length + 2 := rfl

theorem lengthByte_toNat {v : Bytes} (hv : v.length ≤ 255) : (BitVec.ofNat 8 v.length).toNat = v.length := by
  simp; omega

@[simp] theorem recordsBytes_nil : recordsBytes [] = [] := rfl

@[simp] theorem recordsBytes_cons (e : Byte × Bytes) (es : List (Byte × Bytes)) :
    recordsBytes (e :: es) = recordBytes e.1 e.2 ++ recordsBytes es := by
  simp [recordsBytes]

/-! ### Rounds of TLV.DEC -/

theorem tlvRounds_fuel (m : KeyMap) : ∀ (f : Nat) (p : Bytes) (r : RecordSet), p.length ≤ f →
    tlvRounds m f p r = tlvRounds m p.length p r := by
  intro f
  induction f using Nat.strong_induction_on with
  | _ f ih =>
    intro p r hf
    match f, p with
    | 0, [] => rfl
    | _ + 1, [] => rfl
    | _ + 1, [_] => rfl
    | f + 1, c :: l :: rest =>
      simp only [tlvRounds, List.length_cons] at hf ⊢
      split_ifs with hl
      · rw [ih f (by omega) _ _ (by simp; omega),
          ih (rest.length + 1) (by omega) _ _ (by simp; omega)]
      · rfl

/-- TLV.DEC from a record set already found. -/
def tlvFrom (m : KeyMap) (p : Bytes) (r : RecordSet) : RecordSet := tlvRounds m p.length p r

theorem tlvDecode_eq (m : KeyMap) (p : Bytes) : tlvDecode m p = tlvFrom m p [] := rfl

@[simp] theorem tlvFrom_nil (m : KeyMap) (r : RecordSet) : tlvFrom m [] r = r := rfl

@[simp] theorem tlvFrom_single (m : KeyMap) (c : Byte) (r : RecordSet) : tlvFrom m [c] r = r := rfl

/-- One round (41_tlv R102). -/
theorem tlvFrom_cons (m : KeyMap) (c l : Byte) (rest : Bytes) (r : RecordSet) :
    tlvFrom m (c :: l :: rest) r =
      if l.toNat ≤ rest.length then
        tlvFrom m (rest.drop l.toNat) (insertFirst m r c (rest.take l.toNat))
      else r := by
  simp only [tlvFrom, tlvRounds, List.length_cons]
  split_ifs with hl
  · rw [tlvRounds_fuel]; simp; omega
  · rfl

/-- A whole record is one round, and the rest follows. -/
theorem tlvFrom_record (m : KeyMap) (c : Byte) {v : Bytes} (hv : v.length ≤ 255) (rest : Bytes) (r : RecordSet) :
    tlvFrom m (recordBytes c v ++ rest) r = tlvFrom m rest (insertFirst m r c v) := by
  simp only [recordBytes, List.cons_append, tlvFrom_cons, lengthByte_toNat hv]
  simp

theorem tlvFrom_records (m : KeyMap) (rest : Bytes) : ∀ (es : List (Byte × Bytes)) (r : RecordSet),
    (∀ e ∈ es, e.2.length ≤ 255) →
    tlvFrom m (recordsBytes es ++ rest) r =
      tlvFrom m rest (es.foldl (fun r e => insertFirst m r e.1 e.2) r) := by
  intro es
  induction es with
  | nil => intro r _; simp
  | cons e es ih =>
    intro r h
    rw [recordsBytes_cons, List.append_assoc, tlvFrom_record m e.1 (h e (by simp)), ih _ fun e' h' => h e' (by simp [h'])]
    rfl

/-- An induction over the rounds of TLV.DEC: what holds of the record set and is kept by every round holds at the
end. -/
theorem tlvFrom_induction {m : KeyMap} {motive : RecordSet → Prop}
    (step : ∀ r c v, v.length ≤ 255 → motive r → motive (insertFirst m r c v)) :
    ∀ (n : Nat) (p : Bytes) (r : RecordSet), p.length ≤ n → motive r → motive (tlvFrom m p r) := by
  intro n
  induction n using Nat.strong_induction_on with
  | _ n ih =>
    intro p r hn hr
    match p with
    | [] => exact hr
    | [_] => exact hr
    | c :: l :: rest =>
      rw [tlvFrom_cons]
      simp only [List.length_cons] at hn
      split_ifs with hl
      · exact ih (n - 2) (by omega) _ _ (by simp; omega)
          (step _ _ _ (by have := l.isLt; simp; omega) hr)
      · exact hr

/-! ### insertFirst -/

theorem recGet_insertFirst_of_some {m : KeyMap} {r : RecordSet} {k : TlvKey} {v : Bytes} (h : recGet r k = some v)
    (c : Byte) (w : Bytes) : recGet (insertFirst m r c w) k = some v := by
  unfold insertFirst
  split
  · exact h
  · next k' _ =>
    split_ifs with hk
    · rw [recGet_recSet]
      split_ifs with he
      · rw [he, h] at hk; simp at hk
      · exact h
    · exact h

theorem insertFirst_of_unknown {m : KeyMap} {c : Byte} (h : keyOf m c = none) (r : RecordSet) (v : Bytes) :
    insertFirst m r c v = r := by
  simp [insertFirst, h]

theorem recGet_insertFirst_self {m : KeyMap} {r : RecordSet} {c : Byte} {k : TlvKey} (hc : keyOf m c = some k)
    (hr : recGet r k = none) (v : Bytes) : recGet (insertFirst m r c v) k = some v := by
  simp [insertFirst, hc, hr]

theorem insertFirst_ok {m : KeyMap} {r : RecordSet} (hr : RecordSet.Ok r) (c : Byte) {v : Bytes}
    (hv : v.length ≤ 255) : RecordSet.Ok (insertFirst m r c v) := by
  unfold insertFirst
  split
  · exact hr
  · split_ifs
    · exact recSet_ok hr _ hv
    · exact hr

theorem insertFirst_known {m : KeyMap} {r : RecordSet} (hr : RecordSet.Known m r) (c : Byte) (v : Bytes) :
    RecordSet.Known m (insertFirst m r c v) := by
  unfold insertFirst
  split
  · exact hr
  · next k hk =>
    split_ifs
    · exact recSet_known hr (List.mem_map_of_mem (f := Prod.snd) (mem_of_keyOf hk))
    · exact hr

/-- Values of a decoded record set have at most 255 bytes, for their length was read from one byte (41_tlv R102). -/
theorem tlvDecode_fits (m : KeyMap) (p : Bytes) : ∀ e ∈ tlvDecode m p, e.2.length ≤ 255 :=
  (tlvFrom_induction (motive := RecordSet.Ok) (fun _ c _ hv h => insertFirst_ok h c hv) _ _ _ le_rfl ok_nil).2

/-- A slot TLV.DEC has filled is never overwritten (41_tlv R102). -/
theorem recGet_tlvFrom_of_some {m : KeyMap} {r : RecordSet} {k : TlvKey} {v : Bytes} (h : recGet r k = some v)
    (p : Bytes) : recGet (tlvFrom m p r) k = some v :=
  tlvFrom_induction (motive := fun r => recGet r k = some v)
    (fun _ c w _ hr => recGet_insertFirst_of_some hr c w) p.length p r le_rfl h

/-! ### Payloads -/

/-- The records of a payload, as pairs. -/
def payloadRecords (m : KeyMap) (r : RecordSet) : List (Byte × Bytes) :=
  m.filterMap fun e => (recGet r e.2).map fun v => (e.1, v)

theorem tlvEncode_eq_records (m : KeyMap) (r : RecordSet) : tlvEncode m r = recordsBytes (payloadRecords m r) := by
  induction m with
  | nil => rfl
  | cons e m ih =>
    have h : tlvEncode (e :: m) r = entryBytes r e ++ tlvEncode m r := by simp [tlvEncode]
    rw [h, ih]
    cases hg : recGet r e.2 <;> simp [payloadRecords, entryBytes, hg]

theorem mem_payloadRecords {m : KeyMap} {r : RecordSet} {e : Byte × Bytes} (h : e ∈ payloadRecords m r) :
    ∃ k, (e.1, k) ∈ m ∧ recGet r k = some e.2 := by
  simp only [payloadRecords, List.mem_filterMap, Option.map_eq_some_iff] at h
  obtain ⟨⟨c, k⟩, hm, v, hv, rfl⟩ := h
  exact ⟨k, hm, hv⟩

theorem payloadRecords_short {m : KeyMap} {r : RecordSet} (hr : RecordSet.Ok r) :
    ∀ e ∈ payloadRecords m r, e.2.length ≤ 255 := fun _ he => by
  obtain ⟨_, _, h⟩ := mem_payloadRecords he
  exact hr.2 _ (mem_of_recGet h)

end Sys2Proof.Machine
end

