-- ==== Sys2Proof/Laws/Frame.lean ====
section
/-!
SUPPORT. The Frame Codec: lengths and parts of a frame, and what FRM.DEC answers.
-/

namespace Sys2Proof.Machine

@[simp] theorem frameHeader_length (len : Word16) : (frameHeader len).length = 5 := rfl

@[simp] theorem frameHead_length (p : Bytes) : (frameHead p).length = p.length + 5 := by
  simp [frameHead]; omega

@[simp] theorem framePayload_length (p : Bytes) : (framePayload p).length = p.length + 7 := by
  simp [framePayload, be16Bytes]

theorem framePayload_drop_header (p : Bytes) :
    (framePayload p).drop 5 = p ++ be16Bytes (crc16 (frameHead p)) := by
  simp [framePayload, frameHead, frameHeader]

theorem framePayload_take_head (p t : Bytes) : (framePayload p ++ t).take (p.length + 5) = frameHead p := by
  rw [framePayload, List.append_assoc, List.take_append_of_le_length (by simp), List.take_of_length_le (by simp)]

/-- What FRM.DEC answers (42_frame R112, R113): a rejection, or the record set of a part of the buffer. -/
theorem frameDecode_cases (c : Config) (buf : Bytes) :
    (∃ st ∈ [Status.bufferTooLong, .frameTooShort, .badLength, .checksumMismatch], frameDecode c buf = .error st) ∨
    (∃ p, frameDecode c buf = .ok (tlvDecode c.keymap p)) := by
  unfold frameDecode
  split_ifs with h1 h2
  · exact .inl ⟨_, by simp, rfl⟩
  · exact .inl ⟨_, by simp, rfl⟩
  · cases c.rxCrcCheck with
    | off => exact .inr ⟨_, rfl⟩
    | on =>
      simp only [decodeHardened]
      split_ifs with h3 h4
      · exact .inl ⟨_, by simp, rfl⟩
      · exact .inl ⟨_, by simp, rfl⟩
      · exact .inr ⟨_, rfl⟩

/-- Only hardened mode looks at the length field and the CRC (42_frame R112, R113). -/
theorem hardened_of_rejection {c : Config} {buf : Bytes} {st : Status} (h : frameDecode c buf = .error st)
    (hst : st = .badLength ∨ st = .checksumMismatch) : c.rxCrcCheck = .on := by
  unfold frameDecode at h
  cases hc : c.rxCrcCheck with
  | on => rfl
  | off =>
    simp only [hc, decodeLegacy] at h
    split_ifs at h <;> cases h <;> simp at hst

theorem frameDecode_of_short {c : Config} {buf : Bytes} (hm : buf.length ≤ c.rxMax) (h : buf.length < 9) :
    frameDecode c buf = .error .frameTooShort := by
  simp [frameDecode, h]; omega

theorem frameDecode_of_long {c : Config} {buf : Bytes} (hm : c.rxMax < buf.length) :
    frameDecode c buf = .error .bufferTooLong := by
  simp [frameDecode, hm]

theorem frameDecode_legacy {c : Config} {buf : Bytes} (hc : c.rxCrcCheck = .off) (hm : buf.length ≤ c.rxMax)
    (h : 9 ≤ buf.length) : frameDecode c buf = .ok (tlvDecode c.keymap (buf.drop 5)) := by
  have h1 : ¬ c.rxMax < buf.length := by omega
  have h2 : ¬ buf.length < 9 := by omega
  simp [frameDecode, hc, h1, h2, decodeLegacy]

theorem frameDecode_hardened {c : Config} {buf : Bytes} (hc : c.rxCrcCheck = .on) (hm : buf.length ≤ c.rxMax)
    (h : 9 ≤ buf.length) : frameDecode c buf = decodeHardened c.keymap buf h := by
  have h1 : ¬ c.rxMax < buf.length := by omega
  have h2 : ¬ buf.length < 9 := by omega
  simp [frameDecode, hc, h1, h2]

end Sys2Proof.Machine
end

