-- ==== Sys2Proof/Laws/Operands.lean ====
section
/-!
SUPPORT. Decimal text: `dec` digit by digit, its length, what `parse_uint` reads, and how large that can be.
-/

namespace Sys2Proof.Machine

theorem digitByte_toNat {d : Nat} (h : d < 10) : (digitByte d).toNat = 0x30 + d := by
  simp [digitByte]; omega

theorem digitsUp_fuel : ∀ (f v : Nat), v < f → digitsUp f v = digitsUp (v + 1) v := by
  intro f
  induction f using Nat.strong_induction_on with
  | _ f ih =>
    intro v hv
    match f with
    | f + 1 =>
      simp only [digitsUp]
      split_ifs with h
      · rfl
      · rw [ih f (by omega) (v / 10) (by omega), ih v (by omega) (v / 10) (by omega)]

/-- `dec`, digit by digit. -/
theorem dec_eq (v : Nat) :
    dec v = if v < 10 then [digitByte v] else dec (v / 10) ++ [digitByte (v % 10)] := by
  by_cases h : v < 10
  · simp [dec, digitsUp, h]
  · rw [if_neg h, dec, digitsUp, if_neg h, List.reverse_cons, digitsUp_fuel v (v / 10) (by omega)]
    rfl

theorem dec_length {v n : Nat} (hn : 0 < n) (h : v < 10 ^ n) : (dec v).length ≤ n := by
  induction n generalizing v with
  | zero => omega
  | succ n ih =>
    rw [dec_eq]
    split_ifs with hv
    · simp
    · have hn' : 0 < n := by
        rcases Nat.eq_zero_or_pos n with rfl | hn'
        · omega
        · exact hn'
      have := ih hn' (v := v / 10) (by rw [Nat.pow_succ] at h; omega)
      simp; omega

theorem dec_ne_nil (v : Nat) : dec v ≠ [] := by
  rw [dec_eq]; split_ifs <;> simp

theorem dec_digits : ∀ (v : Nat), ∀ b ∈ dec v, isDigit b = true := by
  intro v
  induction v using Nat.strong_induction_on with
  | _ v ih =>
    intro b hb
    rw [dec_eq] at hb
    split_ifs at hb with hv
    · simp only [List.mem_singleton] at hb
      subst hb
      simp [isDigit, digitByte_toNat hv]; omega
    · rcases List.mem_append.mp hb with h | h
      · exact ih (v / 10) (by omega) b h
      · simp only [List.mem_singleton] at h
        subst h
        simp [isDigit, digitByte_toNat (Nat.mod_lt v (by omega : 0 < 10))]; omega

theorem digitsValue_append (b : Bytes) (d : Byte) :
    digitsValue (b ++ [d]) = digitsValue b * 10 + (d.toNat - 0x30) := by
  simp [digitsValue]

theorem digitsValue_dec (v : Nat) : digitsValue (dec v) = v := by
  induction v using Nat.strong_induction_on with
  | _ v ih =>
    rw [dec_eq]
    split_ifs with hv
    · simp [digitsValue, digitByte_toNat hv]
    · rw [digitsValue_append, ih (v / 10) (by omega), digitByte_toNat (Nat.mod_lt v (by omega))]
      omega

/-- What a parsed number is (30_encoding R73). -/
theorem parseUint_eq_val {b : Bytes} {w v : Nat} :
    parseUint b w = .val v ↔ b ≠ [] ∧ b.all isDigit = true ∧ v < 2 ^ w ∧ v = digitsValue b := by
  unfold parseUint
  split_ifs with h
  · constructor
    · rintro ⟨⟩; exact ⟨h.1, h.2.1, h.2.2, rfl⟩
    · rintro ⟨_, _, _, rfl⟩; rfl
  · constructor
    · rintro ⟨⟩
    · rintro ⟨h1, h2, h3, rfl⟩; exact absurd ⟨h1, h2, h3⟩ h

theorem parseUint_ne_absent (b : Bytes) (w : Nat) : parseUint b w ≠ .absent := by
  unfold parseUint; split_ifs <;> simp

theorem digitsValue_lt {b : Bytes} (h : b.all isDigit = true) : digitsValue b < 10 ^ b.length := by
  induction b using List.reverseRecOn with
  | nil => simp [digitsValue]
  | append_singleton b d ih =>
    rw [List.all_append, Bool.and_eq_true] at h
    have hd : d.toNat ≤ 0x39 := by
      have h2 : isDigit d = true := by simpa using h.2
      exact (of_decide_eq_true h2).2
    rw [digitsValue_append, List.length_append, Nat.pow_add]
    have := ih h.1
    simp only [List.length_singleton]
    omega

theorem fieldUint_lt {r : RecordSet} {k : TlvKey} {w v : Nat} (h : fieldUint r k w = .val v) : v < 2 ^ w := by
  unfold fieldUint at h
  split at h
  · simp at h
  · exact (parseUint_eq_val.mp h).2.2.1

/-- A number read from a value of at most 255 bytes has at most 255 digits (30_encoding R73). -/
theorem fieldUint_lt_of_fits {r : RecordSet} (hr : ∀ e ∈ r, e.2.length ≤ 255) {k : TlvKey} {w v : Nat}
    (h : fieldUint r k w = .val v) : v < 10 ^ 255 := by
  unfold fieldUint at h
  split at h
  · simp at h
  · rename_i b hb
    obtain ⟨_, hd, _, rfl⟩ := parseUint_eq_val.mp h
    exact (digitsValue_lt hd).trans_le (Nat.pow_le_pow_right (by omega) (hr _ (mem_of_recGet hb)))

end Sys2Proof.Machine
end

