-- ==== Sys2Proof/Laws/Handshake.lean ====
section
/-!
SUPPORT. The Handshake State Machine: the messages the block builds, everything the four transition rules can do, and
everything a classified message can do.
-/

namespace Sys2Proof.Machine

/-! ### The messages the block builds -/

/-- Where every number of the message fits a record value the frame is `Frame(name, r)` (43_handshake R120; log entry
17 is the other case). -/
theorem messageFrame_of_fits {r : RecordSet} (h : ∀ e ∈ r, e.2.length ≤ 255) (c : Config) (name : Bytes) :
    messageFrame c name r = frameOf c.keymap name r := by
  rw [messageFrame, if_neg]
  rw [anyTooLong_eq_true]
  rintro ⟨e, he, hl⟩
  have := h e he
  omega

theorem amountRecords_eq (s : State) :
    amountRecords s = [(.operationNumber, dec s.opCounter), (.amount, dec s.pendingAmount)] := by
  simp [amountRecords, recSet, TlvKey.ordinal]

theorem dec_fits {v : Nat} (h : v < 10 ^ 255) : (dec v).length ≤ 255 := dec_length (by omega) h

theorem msgIDL_of_fits {s : State} (h : s.opCounter < 10 ^ 255) :
    msgIDL s = frameOf s.cfg.keymap nameIDL [(.operationNumber, dec s.opCounter)] :=
  messageFrame_of_fits (r := [(.operationNumber, dec s.opCounter)]) (by simpa using dec_fits h) _ _

theorem msgVRP_of_fits {s : State} (h : s.opCounter < 10 ^ 255) (ha : s.pendingAmount < 10 ^ 255) :
    msgVRP s =
      frameOf s.cfg.keymap nameVRP [(.operationNumber, dec s.opCounter), (.amount, dec s.pendingAmount)] := by
  rw [msgVRP, amountRecords_eq]
  refine messageFrame_of_fits (fun e he => ?_) _ _
  rcases List.mem_pair.mp he with rfl | rfl
  · exact dec_fits h
  · exact dec_fits ha

theorem msgFIN_of_fits {s : State} (h : s.opCounter < 10 ^ 255) (ha : s.pendingAmount < 10 ^ 255) :
    msgFIN s =
      frameOf s.cfg.keymap nameFIN [(.operationNumber, dec s.opCounter), (.amount, dec s.pendingAmount)] := by
  rw [msgFIN, amountRecords_eq]
  refine messageFrame_of_fits (fun e he => ?_) _ _
  rcases List.mem_pair.mp he with rfl | rfl
  · exact dec_fits h
  · exact dec_fits ha

/-! ### The transitions -/

/-- A start event in the present stage (43_handshake R126). -/
def IsStart (name : Option Bytes) (amt : Field) (s : State) (v : Nat) : Prop :=
  name = some nameSTA ∧ s.stage = .idle ∧ amt = .val v

/-- A reserve-confirm event in the present stage (43_handshake R127). -/
def IsReserve (name : Option Bytes) (amt : Field) (s : State) : Prop :=
  name = some nameVRP ∧ s.stage = .started ∧ amt = .val s.pendingAmount

/-- A finalize-confirm event in the present stage (43_handshake R128). -/
def IsFinalize (name : Option Bytes) (amt : Field) (s : State) : Prop :=
  name = some nameFIN ∧ s.stage = .reserved ∧ amt = .val s.pendingAmount

theorem rxTransitions_start {name : Option Bytes} {amt : Field} {s : State} {v : Nat} (h : IsStart name amt s v) :
    rxTransitions name amt s = { st := s.start v, tx := [msgVRP (s.start v)], event := .start } := by
  obtain ⟨rfl, hs, rfl⟩ := h
  simp [rxTransitions, rxStart, rxReserve, rxFinalize, rxAcknowledge, hs, nameSTA, nameVRP, nameFIN]

theorem rxTransitions_reserve {name : Option Bytes} {amt : Field} {s : State} (h : IsReserve name amt s) :
    rxTransitions name amt s =
      { st := s.setStage .reserved, tx := [msgFIN (s.setStage .reserved)], event := .reserveConfirm } := by
  obtain ⟨rfl, hs, rfl⟩ := h
  simp [rxTransitions, rxStart, rxReserve, rxFinalize, rxAcknowledge, hs, nameSTA, nameVRP, nameFIN]

theorem rxTransitions_finalize {name : Option Bytes} {amt : Field} {s : State} (h : IsFinalize name amt s) :
    rxTransitions name amt s =
      { st := (s.setStage .finalized).endSession, tx := [msgIDL (s.setStage .finalized)],
        event := .finalizeConfirm } := by
  obtain ⟨rfl, hs, rfl⟩ := h
  simp [rxTransitions, rxStart, rxReserve, rxFinalize, rxAcknowledge, hs, nameSTA, nameVRP, nameFIN]

theorem rxTransitions_finalized {name : Option Bytes} {amt : Field} {s : State} (h : s.stage = .finalized) :
    rxTransitions name amt s = { st := s.endSession, tx := [msgIDL s], event := .none } := by
  cases amt <;> simp [rxTransitions, rxStart, rxReserve, rxFinalize, rxAcknowledge, h]

theorem rxTransitions_quiet {name : Option Bytes} {amt : Field} {s : State} (h : s.stage ≠ .finalized)
    (h1 : ∀ v, ¬ IsStart name amt s v) (h2 : ¬ IsReserve name amt s) (h3 : ¬ IsFinalize name amt s) :
    rxTransitions name amt s = { st := s, tx := [], event := .none } := by
  cases amt with
  | val v =>
    have h1' : ¬ (name = some nameSTA ∧ s.stage = .idle) := fun h => h1 v ⟨h.1, h.2, rfl⟩
    have h2' : ¬ (name = some nameVRP ∧ s.stage = .started ∧ v = s.pendingAmount) :=
      fun h => h2 ⟨h.1, h.2.1, by rw [h.2.2]⟩
    have h3' : ¬ (name = some nameFIN ∧ s.stage = .reserved ∧ v = s.pendingAmount) :=
      fun h => h3 ⟨h.1, h.2.1, by rw [h.2.2]⟩
    simp [rxTransitions, rxStart, rxReserve, rxFinalize, rxAcknowledge, h, h1', h2', h3']
  | bad => simp [rxTransitions, rxStart, rxReserve, rxFinalize, rxAcknowledge, h]
  | absent => simp [rxTransitions, rxStart, rxReserve, rxFinalize, rxAcknowledge, h]

/-- Everything the four transition rules can do (43_handshake R130, R132). -/
theorem rxTransitions_cases (name : Option Bytes) (amt : Field) (s : State) :
    (∃ v, IsStart name amt s v ∧
      rxTransitions name amt s = { st := s.start v, tx := [msgVRP (s.start v)], event := .start }) ∨
    (IsReserve name amt s ∧ rxTransitions name amt s =
      { st := s.setStage .reserved, tx := [msgFIN (s.setStage .reserved)], event := .reserveConfirm }) ∨
    (IsFinalize name amt s ∧ rxTransitions name amt s =
      { st := (s.setStage .finalized).endSession, tx := [msgIDL (s.setStage .finalized)],
        event := .finalizeConfirm }) ∨
    (s.stage = .finalized ∧ rxTransitions name amt s = { st := s.endSession, tx := [msgIDL s], event := .none }) ∨
    (s.stage ≠ .finalized ∧ rxTransitions name amt s = { st := s, tx := [], event := .none }) := by
  by_cases h1 : ∃ v, IsStart name amt s v
  · obtain ⟨v, h1⟩ := h1
    exact .inl ⟨v, h1, rxTransitions_start h1⟩
  by_cases h2 : IsReserve name amt s
  · exact .inr (.inl ⟨h2, rxTransitions_reserve h2⟩)
  by_cases h3 : IsFinalize name amt s
  · exact .inr (.inr (.inl ⟨h3, rxTransitions_finalize h3⟩))
  by_cases h4 : s.stage = .finalized
  · exact .inr (.inr (.inr (.inl ⟨h4, rxTransitions_finalized h4⟩)))
  · exact .inr (.inr (.inr (.inr ⟨h4, rxTransitions_quiet h4 (fun v h => h1 ⟨v, h⟩) h2 h3⟩)))

/-- Everything a classified record set can do (43_handshake R123 lines 4 to 17): an abort that changes nothing else, or
seeding and then the transitions. -/
theorem classify_cases (s : State) (r : RecordSet) :
    (∃ c, abortCause s (recGet r .messageName) (opnField s r) (amtField s r) = some c ∧ classify s r = s.abort c) ∨
    (abortCause s (recGet r .messageName) (opnField s r) (amtField s r) = none ∧
      ∃ x, x = rxTransitions (recGet r .messageName) (amtField s r) (rxSeed (opnField s r) s) ∧
        classify s r = x.st.respond
          { status := rxStatus (recGet r .messageName) (opnField s r) (amtField s r), tx := x.tx,
            event := x.event }) := by
  cases h : abortCause s (recGet r .messageName) (opnField s r) (amtField s r) with
  | some c => exact .inl ⟨c, rfl, by simp [classify, h]⟩
  | none => exact .inr ⟨rfl, _, rfl, by simp [classify, h]⟩

/-- A number examined under a name or while unseeded was read from the set (43_handshake R123 lines 6 and 7). -/
theorem amtField_eq_val {s : State} {r : RecordSet} {v : Nat} (h : amtField s r = .val v) :
    isHandshakeName (recGet r .messageName) = true ∧ fieldUint r .amount s.cfg.wAmt = .val v := by
  unfold amtField at h
  split_ifs at h with hn
  exact ⟨hn, h⟩

/-- Everything HS.RX can do (43_handshake R123). -/
theorem execHsRx_cases (buf : Bytes) (s : State) :
    (s.fault = true ∧ execHsRx buf s = .next (s.raise .faulted)) ∨
    (s.fault = false ∧ s.booted = false ∧ execHsRx buf s = .next (s.raise .notBooted)) ∨
    (s.fault = false ∧ s.booted = true ∧
      ((∃ st ∈ [Status.bufferTooLong, .frameTooShort, .badLength, .checksumMismatch],
          frameDecode s.cfg buf = .error st ∧ execHsRx buf s = .next (s.raise st)) ∨
        ∃ p, frameDecode s.cfg buf = .ok (tlvDecode s.cfg.keymap p) ∧
          execHsRx buf s = .next (classify s (tlvDecode s.cfg.keymap p)))) := by
  unfold execHsRx
  rcases whenBooted_cases s (receiveDecoded s (frameDecode s.cfg buf)) with ⟨h, e⟩ | ⟨h, hb, e⟩ | ⟨h, hb, e⟩
  · exact .inl ⟨h, by rw [e]⟩
  · exact .inr (.inl ⟨h, hb, by rw [e]⟩)
  · refine .inr (.inr ⟨h, hb, ?_⟩)
    rw [e]
    rcases frameDecode_cases s.cfg buf with ⟨st, hst, hd⟩ | ⟨p, hd⟩
    · exact .inl ⟨st, hst, hd, by rw [hd]; rfl⟩
    · exact .inr ⟨p, hd, by rw [hd]; rfl⟩

/-- Everything a message row can do. -/
theorem messageArrives_cases (name : Bytes) (r : RecordSet) (s : State) :
    (s.fault = true ∧ messageArrives name r s = s.raise .faulted) ∨
    (s.fault = false ∧ s.booted = false ∧ messageArrives name r s = s.raise .notBooted) ∨
    (s.fault = false ∧ s.booted = true ∧
      ((anyTooLong r = true ∧ messageArrives name r s = s.raise .valueTooLong) ∨
        (anyTooLong r = false ∧ messageArrives name r s = classify s (recSet r .messageName name)))) := by
  unfold messageArrives
  rcases whenBooted_cases s (if anyTooLong r = true then s.raise .valueTooLong
     else classify s (recSet r .messageName name)) with ⟨h, e⟩ | ⟨h, hb, e⟩ | ⟨h, hb, e⟩
  · exact .inl ⟨h, by rw [e]⟩
  · exact .inr (.inl ⟨h, hb, by rw [e]⟩)
  · refine .inr (.inr ⟨h, hb, ?_⟩)
    rw [e]
    cases hl : anyTooLong r <;> simp

/-! ### Seeding, field by field -/

theorem rxSeed_opCounter (opn : Field) (s : State) : (rxSeed opn s).opCounter = seededCounter s opn := by
  cases opn <;> rfl

theorem rxSeed_opSeeded (opn : Field) (s : State) : (rxSeed opn s).opSeeded = (s.opSeeded || isVal opn) := by
  cases opn <;> simp [rxSeed, isVal]

@[simp] theorem rxSeed_crc (opn : Field) (s : State) : (rxSeed opn s).crc = s.crc := by cases opn <;> rfl
@[simp] theorem rxSeed_stage (opn : Field) (s : State) : (rxSeed opn s).stage = s.stage := by cases opn <;> rfl
@[simp] theorem rxSeed_pendingAmount (opn : Field) (s : State) : (rxSeed opn s).pendingAmount = s.pendingAmount := by
  cases opn <;> rfl
@[simp] theorem rxSeed_booted (opn : Field) (s : State) : (rxSeed opn s).booted = s.booted := by cases opn <;> rfl
@[simp] theorem rxSeed_lastIdl (opn : Field) (s : State) : (rxSeed opn s).lastIdl = s.lastIdl := by cases opn <;> rfl
@[simp] theorem rxSeed_fault (opn : Field) (s : State) : (rxSeed opn s).fault = s.fault := by cases opn <;> rfl
@[simp] theorem rxSeed_faultCause (opn : Field) (s : State) : (rxSeed opn s).faultCause = s.faultCause := by
  cases opn <;> rfl
@[simp] theorem rxSeed_cfg (opn : Field) (s : State) : (rxSeed opn s).cfg = s.cfg := by cases opn <;> rfl
@[simp] theorem rxSeed_pending (opn : Field) (s : State) : (rxSeed opn s).pending = s.pending := by cases opn <;> rfl

/-- A seeded block examines no operation number (43_handshake R125). -/
theorem opnField_of_seeded {s : State} (h : s.opSeeded = true) (r : RecordSet) : opnField s r = .absent := by
  simp [opnField, h]

end Sys2Proof.Machine
end

