-- ==== Sys2Proof/Laws/Step.lean ====
section
/-!
SUPPORT. What a step does and what an instruction does, case by case, and the two directions of the frame header's code word.
-/

namespace Sys2Proof.Machine

theorem step_of_waiting {s : State} (h : s.pending = []) : step s = .next s := by
  rw [step, fetch, h]

theorem step_of_pending {s : State} {q : Request} {rest : List Request} (h : s.pending = q :: rest) :
    step s = perform q { s with pending := rest } := by
  rw [step, fetch, h]

theorem perform_of_ok {q : Request} {i : Instr} (h : decode q = .ok i) (s : State) : perform q s = exec i s := by
  rw [perform, h]

theorem perform_of_error {q : Request} {e : DecodeError} (h : decode q = .error e) (s : State) :
    perform q s = .next (unassigned e q.ports s) := by
  rw [perform, h]

/-- Everything a step that answers a next state has done: waited, performed an instruction, or met a code word that
selects no row. -/
theorem step_cases {s t : State} (h : step s = .next t) :
    (s.pending = [] ∧ t = s) ∨
      ∃ q rest, s.pending = q :: rest ∧
        ((∃ i, decode q = .ok i ∧ exec i { s with pending := rest } = .next t) ∨
          ∃ e, decode q = .error e ∧ t = unassigned e q.ports { s with pending := rest }) := by
  cases hp : s.pending with
  | nil =>
    rw [step_of_waiting hp] at h
    exact .inl ⟨rfl, (Host.Outcome.next.inj h).symm⟩
  | cons q rest =>
    rw [step_of_pending hp] at h
    refine .inr ⟨q, rest, rfl, ?_⟩
    cases hd : decode q with
    | ok i => exact .inl ⟨i, rfl, by rw [← perform_of_ok hd, h]⟩
    | error e =>
      rw [perform_of_error hd] at h
      exact .inr ⟨e, rfl, (Host.Outcome.next.inj h).symm⟩

/-! ### What an instruction does -/

/-- Nothing but the response differs, and nothing is emitted. -/
def Quiet (s t : State) : Prop := ∃ o : Response, t = s.respond o ∧ o.tx = [] ∧ o.event = .none

theorem quiet_raise (s : State) (st : Status) : Quiet s (s.raise st) := ⟨_, rfl, rfl, rfl⟩

theorem quiet_unlessFaulted {s rest : State} (h : Quiet s rest) : Quiet s (unlessFaulted s rest) := by
  rcases unlessFaulted_cases s rest with ⟨_, e⟩ | ⟨_, e⟩ <;> rw [e]
  · exact quiet_raise _ _
  · exact h

theorem quiet_recordStream (p : Bytes) (s : State) : Quiet s (recordStream p s) :=
  quiet_unlessFaulted ⟨_, rfl, rfl, rfl⟩

theorem quiet_bufferArrives (buf : Bytes) (s : State) : Quiet s (bufferArrives buf s) := by
  apply quiet_unlessFaulted
  cases frameDecode s.cfg buf
  · exact quiet_raise _ _
  · exact ⟨_, rfl, rfl, rfl⟩

/-- An instruction that hands a record set to the Handshake State Machine: HS.RX and the four message rows. -/
def ReceivesMessage (i : Instr) : Prop :=
  (∃ buf, i = .hsRx buf) ∨ ∃ r, i = .msgSta r ∨ i = .msgVrp r ∨ i = .msgFin r ∨ i = .msgIdl r

/-- A state in which a received record set, its values of at most 255 bytes, has been classified. -/
def Classified (s t : State) : Prop :=
  s.fault = false ∧ s.booted = true ∧ ∃ r : RecordSet, (∀ e ∈ r, e.2.length ≤ 255) ∧ t = classify s r

theorem messageArrives_quiet_or {name : Bytes} (hn : name.length ≤ 255) (r : RecordSet) (s : State) :
    Quiet s (messageArrives name r s) ∨ Classified s (messageArrives name r s) := by
  rcases messageArrives_cases name r s with ⟨_, e⟩ | ⟨_, _, e⟩ | ⟨h, hb, ⟨_, e⟩ | ⟨hl, e⟩⟩
  · exact .inl (e ▸ quiet_raise _ _)
  · exact .inl (e ▸ quiet_raise _ _)
  · exact .inl (e ▸ quiet_raise _ _)
  · exact .inr ⟨h, hb, _, recSet_fits hl hn _, e⟩

/-- What an instruction that answers a next state has done. -/
inductive Did (i : Instr) (s t : State) : Prop
  /-- RESET (44_system R140). -/
  | reset (hi : i = .reset) (ht : t = s.resetRegisters.respond { status := .ok })
  /-- A response and nothing else. -/
  | quiet (hi : i ≠ .reset) (ht : Quiet s t)
  /-- The Checksum Engine wrote `crc` (10_state R21). -/
  | checksum (o : Response) (c : Word16) (hf : s.fault = false) (ho : o.tx = []) (ht : t = (s.setCrc c).respond o)
      (hi : (i = .crcInit ∧ c = 0xFFFF#16) ∨ (∃ b, i = .crcUpdate b ∧ c = crcStep s.crc b) ∨
        ∃ bs, i = .crcCompute bs ∧ c = crc16 bs)
  /-- HS.BOOT passed its gate (43_handshake R122). -/
  | boot (now : Nat) (hi : i = .hsBoot now) (hf : s.fault = false) (hb : s.booted = false)
      (ht : t = (s.boot (s.timePort now)).respond { status := .ok, tx := [msgIDL (s.boot (s.timePort now))] })
  /-- HS.TICK sent (43_handshake R131). -/
  | tick (now : Nat) (hi : i = .hsTick now) (hf : s.fault = false) (hb : s.booted = true)
      (ht : t = (s.setLastIdl (s.timePort now)).respond
        { status := .ok, tx := [msgIDL (s.setLastIdl (s.timePort now))] })
  /-- A message was classified (43_handshake R123). -/
  | message (hi : ReceivesMessage i) (ht : Classified s t)

theorem did_message {i : Instr} {s t : State} {name : Bytes} {r : RecordSet} (hn : name.length ≤ 255)
    (hi : ReceivesMessage i) (hr : i ≠ .reset) (ht : t = messageArrives name r s) : Did i s t := by
  subst ht
  rcases messageArrives_quiet_or hn r s with h | h
  · exact .quiet hr h
  · exact .message hi h

theorem did_checksum {i : Instr} {s t : State} {o : Response} {c : Word16} (ho : o.tx = []) (hr : i ≠ .reset)
    (hi : (i = .crcInit ∧ c = 0xFFFF#16) ∨ (∃ b, i = .crcUpdate b ∧ c = crcStep s.crc b) ∨
      ∃ bs, i = .crcCompute bs ∧ c = crc16 bs)
    (ht : t = unlessFaulted s ((s.setCrc c).respond o)) : Did i s t := by
  subst ht
  rcases unlessFaulted_cases s ((s.setCrc c).respond o) with ⟨_, e⟩ | ⟨hf, e⟩ <;> rw [e]
  · exact .quiet hr (quiet_raise _ _)
  · exact .checksum o c hf ho rfl hi

/-- Everything an instruction can do. -/
theorem exec_cases {i : Instr} {s t : State} (h : exec i s = .next t) : Did i s t := by
  cases i <;> cases h
  case reset => exact .reset rfl rfl
  case crcInit => exact did_checksum rfl (by simp) (.inl ⟨rfl, rfl⟩) rfl
  case crcUpdate b => exact did_checksum rfl (by simp) (.inr (.inl ⟨b, rfl, rfl⟩)) rfl
  case crcRead => exact .quiet (by simp) (quiet_unlessFaulted ⟨_, rfl, rfl, rfl⟩)
  case crcCompute bs => exact did_checksum rfl (by simp) (.inr (.inr ⟨bs, rfl, rfl⟩)) rfl
  case tlvEnc r =>
    refine .quiet (by simp) (quiet_unlessFaulted ?_)
    split_ifs
    · exact quiet_raise _ _
    · exact ⟨_, rfl, rfl, rfl⟩
  case frmEnc name r =>
    refine .quiet (by simp) (quiet_unlessFaulted ?_)
    split_ifs
    · exact quiet_raise _ _
    · exact quiet_raise _ _
    · exact quiet_raise _ _
    · exact ⟨_, rfl, rfl, rfl⟩
  case frmDec buf => exact .quiet (by simp) (quiet_bufferArrives _ _)
  case frameHdr len rest => exact .quiet (by simp) (quiet_bufferArrives _ _)
  case hsStatus => exact .quiet (by simp) ⟨_, rfl, rfl, rfl⟩
  case hsBoot now =>
    rcases unlessBooted_cases s ((s.boot (s.timePort now)).respond
      { status := .ok, tx := [msgIDL (s.boot (s.timePort now))] }) with ⟨_, e⟩ | ⟨_, _, e⟩ | ⟨hf, hb, e⟩ <;> rw [e]
    · exact .quiet (by simp) (quiet_raise _ _)
    · exact .quiet (by simp) (quiet_raise _ _)
    · exact .boot now rfl hf hb rfl
  case hsTick now =>
    rcases whenBooted_cases s (if s.cfg.keepaliveInterval < elapsed s (s.timePort now) then
        (s.setLastIdl (s.timePort now)).respond { status := .ok, tx := [msgIDL (s.setLastIdl (s.timePort now))] }
      else s.respond { status := .ok }) with ⟨_, e⟩ | ⟨_, _, e⟩ | ⟨hf, hb, e⟩ <;> rw [e]
    · exact .quiet (by simp) (quiet_raise _ _)
    · exact .quiet (by simp) (quiet_raise _ _)
    · split_ifs
      · exact .tick now rfl hf hb rfl
      · exact .quiet (by simp) ⟨_, rfl, rfl, rfl⟩
  case hsRx buf =>
    rcases execHsRx_cases buf s with ⟨_, e⟩ | ⟨_, _, e⟩ | ⟨hf, hb, ⟨st, _, _, e⟩ | ⟨p, _, e⟩⟩ <;>
      rw [Host.Outcome.next.inj e]
    · exact .quiet (by simp) (quiet_raise _ _)
    · exact .quiet (by simp) (quiet_raise _ _)
    · exact .quiet (by simp) (quiet_raise _ _)
    · exact .message (.inl ⟨buf, rfl⟩) ⟨hf, hb, _, tlvDecode_fits _ p, rfl⟩
  case msgSta r => exact did_message (by decide) (.inr ⟨r, .inl rfl⟩) (by simp) rfl
  case msgVrp r => exact did_message (by decide) (.inr ⟨r, .inr (.inl rfl)⟩) (by simp) rfl
  case msgFin r => exact did_message (by decide) (.inr ⟨r, .inr (.inr (.inl rfl))⟩) (by simp) rfl
  case msgIdl r => exact did_message (by decide) (.inr ⟨r, .inr (.inr (.inr rfl))⟩) (by simp) rfl
  all_goals exact .quiet (by simp) (quiet_recordStream _ _)

/-- Everything an unassigned code word can do. -/
theorem unassigned_cases (e : DecodeError) (p : Ports) (s : State) :
    Quiet s (unassigned e p s) ∨ Classified s (unassigned e p s) := by
  cases e with
  | unassignedCommand c => exact .inl (quiet_raise _ _)
  | unmatchedName n => exact messageArrives_quiet_or (by simp [nameBytes]) _ _
  | otherKey k => exact .inl (quiet_recordStream _ _)
  | otherHeader h => exact .inl (quiet_bufferArrives _ _)

/-! ### The header word -/

theorem header_mask (i : Nat) (hi : i < 40) :
    (0xFF0000FFFF#40).getLsbD i = decide (i < 16 ∨ 32 ≤ i) := by
  interval_cases i <;> rfl

theorem header_pattern_mid (i : Nat) (h16 : 16 ≤ i) (h32 : i < 32) : (0x1F000096FB#40).getLsbD i = false := by
  interval_cases i <;> rfl

theorem header_pattern_low (i : Nat) (h16 : i < 16) : (0x1F000096FB#40).getLsbD i = (0x96FB#16).getLsbD i := by
  interval_cases i <;> rfl

theorem header_pattern_high (i : Nat) (h32 : 32 ≤ i) (hi : i < 40) :
    (0x1F000096FB#40).getLsbD i = (0x1F#8).getLsbD (i - 32) := by
  interval_cases i <;> rfl

theorem headerWord_getLsbD (len : Word16) (i : Nat) :
    (headerWord len).getLsbD i =
      if i < 16 then (0x96FB#16).getLsbD i else if i < 32 then len.getLsbD (i - 16) else (0x1F#8).getLsbD (i - 32) := by
  simp only [headerWord, BitVec.getLsbD_append]
  by_cases h16 : i < 16
  · simp [h16]
  · by_cases h32 : i < 32
    · have : i - 16 < 16 := by omega
      simp [h16, h32, this]
    · have : ¬ i - 16 < 16 := by omega
      have e : i - 16 - 16 = i - 32 := by omega
      simp [h16, h32, this, e]

end Sys2Proof.Machine
end

