-- ==== Sys2Proof/Laws/PerInstr.lean ====
section
/-!
SUPPORT. The family `TableFit`, instruction by instruction: the word the encoder gives an instruction carries the
fixed bits of that instruction's own row of the opcode table, in the row's format; and no other row of the table in
the same format matches a word its own row matches.
-/

namespace Sys2Proof.Laws.TableFit

open Sys2Proof Sys2Proof.Machine

/-- The instruction's row is in the table and the encoder's word fits it. -/
def Statement (i : Instr) : Prop :=
  ∃ row ∈ opcodeTable, row.mnemonic = mnemonicOf i ∧ row.Matches (encode i).word

/-- Two rows of one format differ in a bit that both fix (a property of the table alone). -/
theorem rows_disjoint :
    opcodeTable.Pairwise fun a b =>
      a.format = b.format → a.pattern &&& (a.mask &&& b.mask) ≠ b.pattern &&& (a.mask &&& b.mask) := by
  decide

/-- The header word's fixed bits (20_memory R46). -/
theorem headerWord_masked (len : Word16) : headerWord len &&& 0xFF0000FFFF#40 = 0x1F000096FB#40 := by
  apply BitVec.eq_of_getLsbD_eq
  intro i hi
  rw [BitVec.getLsbD_and, header_mask i hi, headerWord_getLsbD]
  split_ifs with h16 h32
  · simp [h16, header_pattern_low]
  · rw [header_pattern_mid i (by omega) h32]; simp; omega
  · rw [header_pattern_high i (by omega) hi]; simp; omega

theorem fits {i : Instr} {row : TableRow} (w : CodeWord) (hw : (encode i).word = w) (hm : row ∈ opcodeTable)
    (hn : row.mnemonic = mnemonicOf i) (hf : row.Matches w) : Statement i := ⟨row, hm, hn, hw ▸ hf⟩

theorem reset : Statement .reset :=
  fits (row := ⟨"RESET", "CMD8", 0xFF, 0x01⟩) (.cmd8 0x01#8) rfl (by decide) rfl (by decide)
theorem crcInit : Statement .crcInit :=
  fits (row := ⟨"CRC.INIT", "CMD8", 0xFF, 0x10⟩) (.cmd8 0x10#8) rfl (by decide) rfl (by decide)
theorem crcUpdate (b : Byte) : Statement (.crcUpdate b) :=
  fits (row := ⟨"CRC.UPDATE", "CMD8", 0xFF, 0x11⟩) (.cmd8 0x11#8) rfl (by decide) rfl (by decide)
theorem crcRead : Statement .crcRead :=
  fits (row := ⟨"CRC.READ", "CMD8", 0xFF, 0x12⟩) (.cmd8 0x12#8) rfl (by decide) rfl (by decide)
theorem crcCompute (bs : Bytes) : Statement (.crcCompute bs) :=
  fits (row := ⟨"CRC.COMPUTE", "CMD8", 0xFF, 0x13⟩) (.cmd8 0x13#8) rfl (by decide) rfl (by decide)
theorem tlvEnc (r : RecordSet) : Statement (.tlvEnc r) :=
  fits (row := ⟨"TLV.ENC", "CMD8", 0xFF, 0x20⟩) (.cmd8 0x20#8) rfl (by decide) rfl (by decide)
theorem tlvDec (p : Bytes) : Statement (.tlvDec p) :=
  fits (row := ⟨"TLV.DEC", "CMD8", 0xFF, 0x21⟩) (.cmd8 0x21#8) rfl (by decide) rfl (by decide)
theorem frmEnc (name : Bytes) (r : RecordSet) : Statement (.frmEnc name r) :=
  fits (row := ⟨"FRM.ENC", "CMD8", 0xFF, 0x30⟩) (.cmd8 0x30#8) rfl (by decide) rfl (by decide)
theorem frmDec (buf : Bytes) : Statement (.frmDec buf) :=
  fits (row := ⟨"FRM.DEC", "CMD8", 0xFF, 0x31⟩) (.cmd8 0x31#8) rfl (by decide) rfl (by decide)
theorem hsBoot (now : Nat) : Statement (.hsBoot now) :=
  fits (row := ⟨"HS.BOOT", "CMD8", 0xFF, 0x40⟩) (.cmd8 0x40#8) rfl (by decide) rfl (by decide)
theorem hsRx (buf : Bytes) : Statement (.hsRx buf) :=
  fits (row := ⟨"HS.RX", "CMD8", 0xFF, 0x41⟩) (.cmd8 0x41#8) rfl (by decide) rfl (by decide)
theorem hsTick (now : Nat) : Statement (.hsTick now) :=
  fits (row := ⟨"HS.TICK", "CMD8", 0xFF, 0x42⟩) (.cmd8 0x42#8) rfl (by decide) rfl (by decide)
theorem hsStatus : Statement .hsStatus :=
  fits (row := ⟨"HS.STATUS", "CMD8", 0xFF, 0x43⟩) (.cmd8 0x43#8) rfl (by decide) rfl (by decide)
theorem msgSta (r : RecordSet) : Statement (.msgSta r) :=
  fits (row := ⟨"MSG.STA", "MSGNAME24", 0xFFFFFF, 0x535441⟩) (.msgName24 0x535441#24) rfl (by decide) rfl (by decide)
theorem msgVrp (r : RecordSet) : Statement (.msgVrp r) :=
  fits (row := ⟨"MSG.VRP", "MSGNAME24", 0xFFFFFF, 0x565250⟩) (.msgName24 0x565250#24) rfl (by decide) rfl (by decide)
theorem msgFin (r : RecordSet) : Statement (.msgFin r) :=
  fits (row := ⟨"MSG.FIN", "MSGNAME24", 0xFFFFFF, 0x46494E⟩) (.msgName24 0x46494E#24) rfl (by decide) rfl (by decide)
theorem msgIdl (r : RecordSet) : Statement (.msgIdl r) :=
  fits (row := ⟨"MSG.IDL", "MSGNAME24", 0xFFFFFF, 0x49444C⟩) (.msgName24 0x49444C#24) rfl (by decide) rfl (by decide)
theorem keyMessageName (rest : Bytes) : Statement (.keyMessageName rest) :=
  fits (row := ⟨"KEY.MessageName", "TLVKEY8", 0xFF, 0x01⟩) (.tlvKey8 0x01#8) rfl (by decide) rfl (by decide)
theorem keyOperationNumber (rest : Bytes) : Statement (.keyOperationNumber rest) :=
  fits (row := ⟨"KEY.OperationNumber", "TLVKEY8", 0xFF, 0x03⟩) (.tlvKey8 0x03#8) rfl (by decide) rfl (by decide)
theorem keyAmount (rest : Bytes) : Statement (.keyAmount rest) :=
  fits (row := ⟨"KEY.Amount", "TLVKEY8", 0xFF, 0x04⟩) (.tlvKey8 0x04#8) rfl (by decide) rfl (by decide)
theorem keyKeepaliveInterval (rest : Bytes) : Statement (.keyKeepaliveInterval rest) :=
  fits (row := ⟨"KEY.KeepaliveInterval", "TLVKEY8", 0xFF, 0x05⟩) (.tlvKey8 0x05#8) rfl (by decide) rfl (by decide)
theorem keyQrPayload (rest : Bytes) : Statement (.keyQrPayload rest) :=
  fits (row := ⟨"KEY.QrPayload", "TLVKEY8", 0xFF, 0x0A⟩) (.tlvKey8 0x0A#8) rfl (by decide) rfl (by decide)
theorem frameHdr (len : Word16) (rest : Bytes) : Statement (.frameHdr len rest) := by
  refine fits (row := ⟨"FRAME.HDR", "FRAME40", 0xFF0000FFFF, 0x1F000096FB⟩) _ rfl (by decide) rfl ⟨rfl, ?_⟩
  have h := congrArg BitVec.toNat (headerWord_masked len)
  rwa [BitVec.toNat_and] at h

end Sys2Proof.Laws.TableFit
end

