-- ==== Sys2Proof/Tests/Slice0.lean ====
section
/-!
SUPPORT. Tests: ill-formed operands and configurations refused, words written out from 30_encoding, vectors of
95_test_vectors one step each, and for every statement with hypotheses a state and operands that meet them.
-/

namespace Sys2Proof.Tests

open Sys2Proof Sys2Proof.Machine

/-! ### Small states -/

/-- The response of an operation that answered a next state. -/
def answer : Host.Outcome State Fault Refusal → Option Response
  | .next t => t.response
  | _ => none

/-- The next state of an operation. -/
def after : Host.Outcome State Fault Refusal → Option State
  | .next t => some t
  | _ => none

/-- The record set of a decoded buffer, or the status that rejected it. -/
def decodedIs (d : Except Status RecordSet) (r : RecordSet) : Bool :=
  match d with
  | .ok r' => decide (r' = r)
  | .error _ => false

theorem eq_ok_of_decodedIs {d : Except Status RecordSet} {r : RecordSet} (h : decodedIs d r = true) : d = .ok r := by
  cases d <;> simp_all [decodedIs]

/-- Booted, nothing else. -/
def bootedState : State := { State.reset with booted := true }

/-- Booted and seeded with 7: (Idle, 0, 7, 1, 1, 1000, 0, NONE). -/
def seededState : State := { bootedState with opCounter := 7, opSeeded := true, lastIdl := 1000 }

/-- (Started, 150, 8, 1, 1, 1000, 0, NONE). -/
def startedState : State := { seededState with opCounter := 8, stage := .started, pendingAmount := 150 }

/-- (Reserved, 150, 8, 1, 1, 1000, 0, NONE). -/
def reservedState : State := { startedState with stage := .reserved }

/-- A faulted state. -/
def faultedState : State := { startedState with fault := true, faultCause := .amountAbsent, crc := 0x29B1#16 }

/-- The same state in hardened mode. -/
def hardened (s : State) : State := { s with cfg := { s.cfg with rxCrcCheck := .on } }

/-- The same state under policy `ignore`. -/
def ignoring (s : State) : State := { s with cfg := { s.cfg with badFieldPolicy := .ignore } }

/-- The state with numbers of 1000 bits. -/
def wide (s : State) : State := { s with cfg := { s.cfg with wAmt := 1000, wOp := 1000, wTime := 1000 } }

/-- The same state with requests presented. -/
def presented (s : State) (qs : List Request) : State := { s with pending := qs }

/-! ### Frames of 95_test_vectors, part 2.3 -/

/-- F-STA150: "STA", Amount "150". -/
def fSTA150 : Bytes :=
  [0x1F#8, 0x00#8, 0x0C#8, 0x96#8, 0xFB#8, 0x01#8, 0x03#8, 0x53#8, 0x54#8, 0x41#8, 0x04#8, 0x03#8, 0x31#8, 0x35#8,
   0x30#8, 0x46#8, 0x62#8]

/-- F-VRP150: "VRP", Amount "150". -/
def fVRP150 : Bytes :=
  [0x1F#8, 0x00#8, 0x0C#8, 0x96#8, 0xFB#8, 0x01#8, 0x03#8, 0x56#8, 0x52#8, 0x50#8, 0x04#8, 0x03#8, 0x31#8, 0x35#8,
   0x30#8, 0xF0#8, 0xDD#8]

/-- F-FIN150: "FIN", Amount "150". -/
def fFIN150 : Bytes :=
  [0x1F#8, 0x00#8, 0x0C#8, 0x96#8, 0xFB#8, 0x01#8, 0x03#8, 0x46#8, 0x49#8, 0x4E#8, 0x04#8, 0x03#8, 0x31#8, 0x35#8,
   0x30#8, 0x2B#8, 0x1A#8]

/-- F-VRP0: "VRP" without Amount. -/
def fVRP0 : Bytes :=
  [0x1F#8, 0x00#8, 0x07#8, 0x96#8, 0xFB#8, 0x01#8, 0x03#8, 0x56#8, 0x52#8, 0x50#8, 0x64#8, 0x74#8]

/-- F-STAe: "STA", Amount "". -/
def fSTAe : Bytes :=
  [0x1F#8, 0x00#8, 0x09#8, 0x96#8, 0xFB#8, 0x01#8, 0x03#8, 0x53#8, 0x54#8, 0x41#8, 0x04#8, 0x00#8, 0x7C#8, 0x50#8]

/-- F-IDL7: "IDL", OperationNumber "7". -/
def fIDL7 : Bytes :=
  [0x1F#8, 0x00#8, 0x0A#8, 0x96#8, 0xFB#8, 0x01#8, 0x03#8, 0x49#8, 0x44#8, 0x4C#8, 0x03#8, 0x01#8, 0x37#8, 0xC6#8,
   0xAE#8]

/-- F-IDL8: "IDL", OperationNumber "8". -/
def fIDL8 : Bytes :=
  [0x1F#8, 0x00#8, 0x0A#8, 0x96#8, 0xFB#8, 0x01#8, 0x03#8, 0x49#8, 0x44#8, 0x4C#8, 0x03#8, 0x01#8, 0x38#8, 0x37#8,
   0x41#8]

/-- F-IDL0: "IDL", OperationNumber "0". -/
def fIDL0 : Bytes :=
  [0x1F#8, 0x00#8, 0x0A#8, 0x96#8, 0xFB#8, 0x01#8, 0x03#8, 0x49#8, 0x44#8, 0x4C#8, 0x03#8, 0x01#8, 0x30#8, 0xB6#8,
   0x49#8]

/-- F-IDLover: "IDL", OperationNumber "4294967296". -/
def fIDLover : Bytes :=
  [0x1F#8, 0x00#8, 0x13#8, 0x96#8, 0xFB#8, 0x01#8, 0x03#8, 0x49#8, 0x44#8, 0x4C#8, 0x03#8, 0x0A#8, 0x34#8, 0x32#8,
   0x39#8, 0x34#8, 0x39#8, 0x36#8, 0x37#8, 0x32#8, 0x39#8, 0x36#8, 0x06#8, 0x9E#8]

/-- F-STA150op20: "STA", Amount "150", OperationNumber "20". -/
def fSTA150op20 : Bytes :=
  [0x1F#8, 0x00#8, 0x10#8, 0x96#8, 0xFB#8, 0x01#8, 0x03#8, 0x53#8, 0x54#8, 0x41#8, 0x03#8, 0x02#8, 0x32#8, 0x30#8,
   0x04#8, 0x03#8, 0x31#8, 0x35#8, 0x30#8, 0x2B#8, 0xFE#8]

/-- F-VRP150op8: "VRP", Amount "150", OperationNumber "8". -/
def fVRP150op8 : Bytes :=
  [0x1F#8, 0x00#8, 0x0F#8, 0x96#8, 0xFB#8, 0x01#8, 0x03#8, 0x56#8, 0x52#8, 0x50#8, 0x03#8, 0x01#8, 0x38#8, 0x04#8,
   0x03#8, 0x31#8, 0x35#8, 0x30#8, 0xA8#8, 0x51#8]

/-- F-FIN150op8: "FIN", Amount "150", OperationNumber "8". -/
def fFIN150op8 : Bytes :=
  [0x1F#8, 0x00#8, 0x0F#8, 0x96#8, 0xFB#8, 0x01#8, 0x03#8, 0x46#8, 0x49#8, 0x4E#8, 0x03#8, 0x01#8, 0x38#8, 0x04#8,
   0x03#8, 0x31#8, 0x35#8, 0x30#8, 0xB2#8, 0xF7#8]

/-- F-VRP150op21: "VRP", Amount "150", OperationNumber "21". -/
def fVRP150op21 : Bytes :=
  [0x1F#8, 0x00#8, 0x10#8, 0x96#8, 0xFB#8, 0x01#8, 0x03#8, 0x56#8, 0x52#8, 0x50#8, 0x03#8, 0x02#8, 0x32#8, 0x31#8,
   0x04#8, 0x03#8, 0x31#8, 0x35#8, 0x30#8, 0x6A#8, 0xD8#8]

/-- F-STA1: "STA", Amount "1". -/
def fSTA1 : Bytes :=
  [0x1F#8, 0x00#8, 0x0A#8, 0x96#8, 0xFB#8, 0x01#8, 0x03#8, 0x53#8, 0x54#8, 0x41#8, 0x04#8, 0x01#8, 0x31#8, 0x82#8,
   0xA2#8]

/-- F-VRP99: "VRP", Amount "99". -/
def fVRP99 : Bytes :=
  [0x1F#8, 0x00#8, 0x0B#8, 0x96#8, 0xFB#8, 0x01#8, 0x03#8, 0x56#8, 0x52#8, 0x50#8, 0x04#8, 0x02#8, 0x39#8, 0x39#8,
   0x3D#8, 0x71#8]

/-! ### Well-formedness: one ill-formed term for each check -/

theorem test_wf_value_over_255 : ¬ Instr.Wf Config.reference (.tlvEnc [(.amount, List.replicate 256 0x41#8)]) := by
  decide +kernel

theorem test_wf_value_of_255 : Instr.Wf Config.reference (.tlvEnc [(.amount, List.replicate 255 0x41#8)]) := by
  decide +kernel

theorem test_wf_slots_unsorted :
    ¬ Instr.Wf Config.reference (.msgSta [(.amount, [0x31#8]), (.messageName, nameSTA)]) := by decide

theorem test_wf_slot_twice : ¬ Instr.Wf Config.reference (.msgVrp [(.amount, [0x31#8]), (.amount, [0x32#8])]) := by
  decide

theorem test_wf_key_without_code : ¬ Instr.Wf Config.reference (.msgFin [(.other 0, [])]) := by decide

theorem test_wf_name_over_255 : ¬ Instr.Wf Config.reference (.frmEnc (List.replicate 256 0x41#8) []) := by
  decide +kernel

theorem test_wf_frm_key : ¬ Instr.Wf Config.reference (.frmEnc nameSTA [(.other 3, [])]) := by decide

theorem test_wf_idl_slots : ¬ Instr.Wf Config.reference (.msgIdl [(.amount, []), (.amount, [])]) := by decide

theorem test_wf_boot_time : ¬ Instr.Wf Config.reference (.hsBoot (2 ^ 64)) := by decide

theorem test_wf_tick_time :
    Instr.Wf Config.reference (.hsTick (2 ^ 64 - 1)) ∧ ¬ Instr.Wf Config.reference (.hsTick (2 ^ 64)) := by decide

theorem test_config_reference : Config.reference.Valid := by decide

theorem test_config_code_zero :
    ¬ { Config.reference with keymap := (0x00#8, .other 0) :: KeyMap.reference }.Valid := by decide

theorem test_config_code_twice :
    ¬ { Config.reference with keymap := (0x01#8, .other 0) :: KeyMap.reference }.Valid := by decide

theorem test_config_key_twice :
    ¬ { Config.reference with keymap := KeyMap.reference ++ [(0x0B#8, TlvKey.amount)] }.Valid := by decide

theorem test_config_key_missing : ¬ { Config.reference with keymap := KeyMap.reference.drop 1 }.Valid := by decide

theorem test_config_width_zero : ¬ { Config.reference with wOp := 0 }.Valid := by decide

/-- The example of 43_handshake R123 (V-HS-3) in a configuration of 1000-bit numbers: every width is a configuration. -/
theorem test_wide_start :
    (wide seededState).cfg.Valid ∧
    answer (step (presented (wide seededState) [encode (.hsRx fSTA150)])) =
      some { status := .ok, tx := [fVRP150op8], event := .start } := by decide +kernel

/-- A counter of 256 digits: the start event completes, and only the bytes of its one message are open (log entry 17). -/
theorem test_wide_counter :
    (after (exec (.hsRx fSTA150) { wide seededState with opCounter := 10 ^ 255 - 1 })).map
      (fun t => (t.stage, t.pendingAmount, decide (t.opCounter = 10 ^ 255), t.response.map (·.tx.length))) =
      some (.started, 150, true, some 1) := by decide +kernel

/-! ### Decoding: words written out from 30_encoding R75, R74, R70 and 20_memory R46 -/

theorem test_decode_commands (p : Ports) :
    decode ⟨.cmd8 0b00000001#8, p⟩ = .ok .reset ∧
    decode ⟨.cmd8 0b00010000#8, p⟩ = .ok .crcInit ∧
    decode ⟨.cmd8 0b00010001#8, p⟩ = .ok (.crcUpdate p.b) ∧
    decode ⟨.cmd8 0b00010010#8, p⟩ = .ok .crcRead ∧
    decode ⟨.cmd8 0b00010011#8, p⟩ = .ok (.crcCompute p.bytes) ∧
    decode ⟨.cmd8 0b00100000#8, p⟩ = .ok (.tlvEnc p.records) ∧
    decode ⟨.cmd8 0b00100001#8, p⟩ = .ok (.tlvDec p.bytes) :=
  ⟨rfl, rfl, rfl, rfl, rfl, rfl, rfl⟩

theorem test_decode_frame_and_handshake_commands (p : Ports) :
    decode ⟨.cmd8 0b00110000#8, p⟩ = .ok (.frmEnc p.name p.records) ∧
    decode ⟨.cmd8 0b00110001#8, p⟩ = .ok (.frmDec p.bytes) ∧
    decode ⟨.cmd8 0b01000000#8, p⟩ = .ok (.hsBoot p.now) ∧
    decode ⟨.cmd8 0b01000001#8, p⟩ = .ok (.hsRx p.bytes) ∧
    decode ⟨.cmd8 0b01000010#8, p⟩ = .ok (.hsTick p.now) ∧
    decode ⟨.cmd8 0b01000011#8, p⟩ = .ok .hsStatus :=
  ⟨rfl, rfl, rfl, rfl, rfl, rfl⟩

/-- The letters of 30_encoding R71, eight bits each: S 01010011, T 01010100, A 01000001, and so on. -/
theorem test_decode_names (p : Ports) :
    decode ⟨.msgName24 0b010100110101010001000001#24, p⟩ = .ok (.msgSta p.records) ∧
    decode ⟨.msgName24 0b010101100101001001010000#24, p⟩ = .ok (.msgVrp p.records) ∧
    decode ⟨.msgName24 0b010001100100100101001110#24, p⟩ = .ok (.msgFin p.records) ∧
    decode ⟨.msgName24 0b010010010100010001001100#24, p⟩ = .ok (.msgIdl p.records) :=
  ⟨rfl, rfl, rfl, rfl⟩

theorem test_decode_keys (p : Ports) :
    decode ⟨.tlvKey8 0b00000001#8, p⟩ = .ok (.keyMessageName p.bytes) ∧
    decode ⟨.tlvKey8 0b00000011#8, p⟩ = .ok (.keyOperationNumber p.bytes) ∧
    decode ⟨.tlvKey8 0b00000100#8, p⟩ = .ok (.keyAmount p.bytes) ∧
    decode ⟨.tlvKey8 0b00000101#8, p⟩ = .ok (.keyKeepaliveInterval p.bytes) ∧
    decode ⟨.tlvKey8 0b00001010#8, p⟩ = .ok (.keyQrPayload p.bytes) :=
  ⟨rfl, rfl, rfl, rfl, rfl⟩

/-- The header of V-FRM-1, `1F 00 0C 96 FB`, bit by bit. -/
theorem test_decode_header (p : Ports) :
    decode ⟨.frame40 0b0001111100000000000011001001011011111011#40, p⟩ = .ok (.frameHdr 12#16 p.bytes) := rfl

theorem test_decode_rejects (p : Ports) :
    decode ⟨.cmd8 0x00#8, p⟩ = .error (.unassignedCommand 0x00#8) ∧
    decode ⟨.cmd8 0x44#8, p⟩ = .error (.unassignedCommand 0x44#8) ∧
    decode ⟨.msgName24 0x737461#24, p⟩ = .error (.unmatchedName 0x737461#24) ∧
    decode ⟨.tlvKey8 0x00#8, p⟩ = .error (.otherKey 0x00#8) ∧
    decode ⟨.frame40 0x1F000C97FB#40, p⟩ = .error (.otherHeader 0x1F000C97FB#40) :=
  ⟨rfl, rfl, rfl, rfl, rfl⟩

/-- A table word is fetched and runs as the first instruction after reset. -/
theorem test_fetch_word :
    (after (step (State.reset.withFetchWord 8 0x40))).map (·.booted) = some true ∧
    (after (step (State.reset.withFetchWord 8 0xFF))).map (·.response) = some (some { status := .illegalCommand }) := by
  decide +kernel

/-! ### Codes of the named values (10_state R22, 60_exceptions R150, R152) -/

theorem test_codes :
    Stage.finalized.code = 3#2 ∧ FaultCause.opCounterOverflow.code = 4#3 ∧ Status.payloadTooLong.code = 0x05#8 ∧
    Status.illegalCommand.code = 0x0D#8 := by decide

/-! ### Checksum Engine -/

/-- V-CRC-1 and V-CRC-3. -/
theorem test_crc_compute :
    answer (exec (.crcCompute []) State.reset) = some { status := .ok, result := .crc 0xFFFF#16 } ∧
    answer (exec (.crcCompute [0x31#8, 0x32#8, 0x33#8, 0x34#8, 0x35#8, 0x36#8, 0x37#8, 0x38#8, 0x39#8]) State.reset) =
      some { status := .ok, result := .crc 0x29B1#16 } := by decide +kernel

/-- V-CRC-7 and V-CRC-8. -/
theorem test_crc_order :
    crc16 [0x01#8, 0x02#8] = 0x0E7C#16 ∧ crc16 [0x02#8, 0x01#8] = 0x6B4C#16 := by decide +kernel

/-- The second row of V-CRC-3's streaming table: C782, byte 32, index F5. -/
theorem test_crc_update :
    (after (exec (.crcUpdate 0x32#8) { State.reset with crc := 0xC782#16 })).map (·.crc) = some 0x3DBA#16 := by
  decide +kernel

theorem test_crc_init : (after (exec .crcInit { State.reset with crc := 0x29B1#16 })).map (·.crc) = some 0xFFFF#16 := by
  decide

theorem test_crc_read :
    answer (exec .crcRead { State.reset with crc := 0x29B1#16 }) = some { status := .ok, result := .crc 0x29B1#16 } := by
  decide

/-! ### Record Codec -/

/-- V-TLV-4, its operands in slot order: all five default keys, ascending code. -/
theorem test_tlv_enc :
    answer (exec (.tlvEnc [(.messageName, nameIDL), (.operationNumber, [0x37#8]), (.amount, [0x31#8]),
      (.keepaliveInterval, [0x32#8, 0x37#8, 0x30#8]), (.qrPayload, [0x78#8])]) State.reset) =
    some
      { status := .ok
        result := .bytes [0x01#8, 0x03#8, 0x49#8, 0x44#8, 0x4C#8, 0x03#8, 0x01#8, 0x37#8, 0x04#8, 0x01#8, 0x31#8,
          0x05#8, 0x03#8, 0x32#8, 0x37#8, 0x30#8, 0x0A#8, 0x01#8, 0x78#8] } := by decide

theorem test_tlv_enc_too_long :
    answer (exec (.tlvEnc [(.amount, List.replicate 256 0x41#8)]) State.reset) = some { status := .valueTooLong } := by
  decide +kernel

/-- V-TLV-3 and V-TLV-15. -/
theorem test_tlv_dec :
    tlvDecode KeyMap.reference [0x04#8, 0x03#8, 0x31#8, 0x35#8, 0x30#8, 0x01#8, 0x03#8, 0x53#8, 0x54#8, 0x41#8] =
      [(.messageName, nameSTA), (.amount, [0x31#8, 0x35#8, 0x30#8])] ∧
    tlvDecode KeyMap.reference [0x04#8, 0x01#8, 0x35#8, 0x03#8, 0xFF#8, 0x31#8] = [(.amount, [0x35#8])] := by decide

/-- V-TLV-13 and V-TLV-16. -/
theorem test_tlv_dec_stops :
    tlvDecode KeyMap.reference [0x01#8, 0x00#8, 0x01#8, 0x05#8, 0x31#8, 0x32#8] = [(.messageName, [])] ∧
    tlvDecode KeyMap.reference [0x77#8, 0x05#8, 0x04#8, 0x01#8, 0x31#8] = [] := by decide

/-- Each key row on a whole record of its key, and V-TLV-7 as the row KEY.Amount. -/
theorem test_key_rows :
    answer (exec (.keyMessageName [0x01#8, 0x53#8]) State.reset) =
      some { status := .ok, result := .records [(.messageName, [0x53#8])] } ∧
    answer (exec (.keyOperationNumber [0x01#8, 0x37#8]) State.reset) =
      some { status := .ok, result := .records [(.operationNumber, [0x37#8])] } ∧
    answer (exec (.keyAmount [0x03#8, 0x31#8, 0x35#8]) State.reset) = some { status := .ok, result := .records [] } ∧
    answer (exec (.keyKeepaliveInterval [0x00#8]) State.reset) =
      some { status := .ok, result := .records [(.keepaliveInterval, [])] } ∧
    answer (exec (.keyQrPayload [0x01#8, 0x78#8]) State.reset) =
      some { status := .ok, result := .records [(.qrPayload, [0x78#8])] } := by decide

/-! ### Frame Codec -/

/-- V-FRM-1. -/
theorem test_frm_enc :
    answer (exec (.frmEnc nameSTA [(.amount, [0x31#8, 0x35#8, 0x30#8])]) State.reset) =
      some { status := .ok, result := .bytes fSTA150 } := by decide +kernel

/-- V-FRM-5: the operand name replaces the one in the set. -/
theorem test_frm_enc_name :
    answer (exec (.frmEnc [0x58#8, 0x59#8, 0x5A#8] [(.messageName, nameSTA), (.amount, [0x35#8])]) State.reset) =
      some
        { status := .ok
          result := .bytes [0x1F#8, 0x00#8, 0x0A#8, 0x96#8, 0xFB#8, 0x01#8, 0x03#8, 0x58#8, 0x59#8, 0x5A#8, 0x04#8,
            0x01#8, 0x35#8, 0x25#8, 0x46#8] } := by decide +kernel

/-- V-FRM-13: a corrupted byte, in both modes. -/
theorem test_frm_dec_corrupted :
    answer (exec (.frmDec (fSTA150.set 12 0x30#8)) State.reset) =
      some { status := .ok, result := .records [(.messageName, nameSTA), (.amount, [0x30#8, 0x35#8, 0x30#8])] } ∧
    answer (exec (.frmDec (fSTA150.set 12 0x30#8)) (hardened State.reset)) = some { status := .checksumMismatch } := by
  decide +kernel

/-- V-FRM-18 and V-FRM-19. -/
theorem test_frm_dec_buffer_limit :
    answer (exec (.frmDec (List.replicate 513 0#8)) State.reset) = some { status := .bufferTooLong } ∧
    answer (exec (.frmDec (List.replicate 512 0#8)) (hardened State.reset)) = some { status := .badLength } := by
  decide +kernel

/-- V-FRM-16 as the row FRAME.HDR: length field 0x00FF. -/
theorem test_frame_hdr :
    answer (exec (.frameHdr 0x00FF#16 [0x01#8, 0x00#8, 0x04#8, 0xCE#8]) State.reset) =
      some { status := .ok, result := .records [(.messageName, [])] } ∧
    answer (exec (.frameHdr 0x00FF#16 [0x01#8, 0x00#8, 0x04#8, 0xCE#8]) (hardened State.reset)) =
      some { status := .badLength } := by decide +kernel

/-! ### Handshake State Machine -/

/-- V-HS-1. -/
theorem test_hs_boot :
    after (exec (.hsBoot 1000) State.reset) =
      some { bootedState with lastIdl := 1000, response := some { status := .ok, tx := [fIDL0] } } := by decide +kernel

/-- V-HS-3: scenario 1. -/
theorem test_hs_rx_start :
    after (exec (.hsRx fSTA150) seededState) =
      some { startedState with response := some { status := .ok, tx := [fVRP150op8], event := .start } } := by
  decide +kernel

/-- V-HS-29: an operation number of 2^32 aborts and seeds nothing. -/
theorem test_hs_rx_abort :
    after (exec (.hsRx fIDLover) bootedState) =
      some
        { bootedState with
          fault := true, faultCause := .opnumUnparseable, response := some { status := .aborted } } := by
  decide +kernel

/-- V-HS-8 and V-HS-9: more than the interval, not the interval itself. -/
theorem test_hs_tick :
    answer (exec (.hsTick 1270) { seededState with opCounter := 8 }) = some { status := .ok } ∧
    answer (exec (.hsTick 1271) { seededState with opCounter := 8 }) = some { status := .ok, tx := [fIDL8] } := by
  decide +kernel

/-- V-HS-13: time going backwards counts as none elapsed. -/
theorem test_hs_tick_backwards :
    answer (exec (.hsTick 3) { bootedState with lastIdl := 7 }) = some { status := .ok } := by decide +kernel

/-- V-HS-39, P4 step 9. -/
theorem test_hs_status :
    answer (exec .hsStatus faultedState) =
      some
        { status := .ok
          result := .registers
            { stage := .started, pendingAmount := 150, opCounter := 8, opSeeded := true, booted := true,
              lastIdl := 1000, fault := true, faultCause := .amountAbsent } } := by decide

/-- V-HS-40. -/
theorem test_reset :
    after (exec .reset faultedState) = some { State.reset with response := some { status := .ok } } := by decide

/-- V-HS-20 as the row MSG.STA: seed and start in one message. -/
theorem test_msg_sta :
    answer (exec (.msgSta [(.operationNumber, [0x32#8, 0x30#8]), (.amount, [0x31#8, 0x35#8, 0x30#8])]) bootedState) =
      some { status := .ok, tx := [fVRP150op21], event := .start } := by decide +kernel

/-- V-HS-4 and V-HS-6 as the row MSG.VRP. -/
theorem test_msg_vrp :
    answer (exec (.msgVrp [(.amount, [0x31#8, 0x35#8, 0x30#8])]) startedState) =
      some { status := .ok, tx := [fFIN150op8], event := .reserveConfirm } ∧
    answer (exec (.msgVrp [(.amount, [0x39#8, 0x39#8])]) startedState) = some { status := .ok } := by decide +kernel

/-- V-HS-5 as the row MSG.FIN. -/
theorem test_msg_fin :
    after (exec (.msgFin [(.amount, [0x31#8, 0x35#8, 0x30#8])]) reservedState) =
      some
        { seededState with
          opCounter := 8, response := some { status := .ok, tx := [fIDL8], event := .finalizeConfirm } } := by
  decide +kernel

/-- V-HS-2 and V-HS-19 as the row MSG.IDL: only an unseeded block is seeded. -/
theorem test_msg_idl :
    (after (exec (.msgIdl [(.operationNumber, [0x37#8])]) bootedState)).map (·.opCounter) = some 7 ∧
    (after (exec (.msgIdl [(.operationNumber, [0x37#8])]) { startedState with opCounter := 1 })).map (·.opCounter) =
      some 1 := by decide +kernel

/-- 30_encoding R72 and R73: the text of a number, and what is no number. -/
theorem test_numbers_as_text :
    dec 270 = [0x32#8, 0x37#8, 0x30#8] ∧ parseUint [0x30#8, 0x31#8, 0x35#8, 0x30#8] 32 = .val 150 ∧
    parseUint [0x2B#8, 0x31#8] 32 = .bad ∧ parseUint [0x32#8, 0x35#8, 0x36#8] 8 = .bad := by decide

/-! ### A witness for the hypotheses of every statement that has any -/

theorem test_witness_StatusReadsTheRegisters : State.reset.Inv := by decide

theorem test_witness_StepRunsThePresentedInstruction :
    ((presented State.reset [encode .crcInit]).pending = [encode .crcInit] ∧
      decode (encode .crcInit) = .ok .crcInit) ∧
    State.reset.pending = [] :=
  ⟨⟨rfl, rfl⟩, rfl⟩

/-- The codes of V-HS-41. -/
theorem test_witness_UnassignedCommandIsIllegal :
    (presented State.reset [⟨.cmd8 0x02#8, {}⟩]).pending = [⟨.cmd8 0x02#8, {}⟩] ∧
    ∀ code ∈ [0x02#8, 0x14#8, 0x44#8, 0xFF#8],
      code ∉ [0x01#8, 0x10#8, 0x11#8, 0x12#8, 0x13#8, 0x20#8, 0x21#8, 0x30#8, 0x31#8, 0x40#8, 0x41#8, 0x42#8,
        0x43#8] := by decide

/-- The name "sta": gated in both ways, refused for a long value, aborting on a Bad operation number, seeding with 7. -/
theorem test_witness_UnassignedWireWordsAreRead :
    (0x77#8 ∉ [0x01#8, 0x03#8, 0x04#8, 0x05#8, 0x0A#8]) ∧
    (0x1F000C97FB#40 &&& 0xFF0000FFFF#40 ≠ 0x1F000096FB#40) ∧
    (0x737461#24 ∉ [0x535441#24, 0x565250#24, 0x46494E#24, 0x49444C#24]) ∧ bootedState.stage ≠ .finalized ∧
    (presented bootedState [⟨.msgName24 0x737461#24, {}⟩]).pending = [⟨.msgName24 0x737461#24, {}⟩] ∧
    (faultedState.fault = true ∧ faultedState.stage ≠ .finalized) ∧
    (State.reset.fault = false ∧ State.reset.booted = false ∧ State.reset.stage ≠ .finalized) ∧
    (bootedState.fault = false ∧ bootedState.booted = true ∧
      (∃ e ∈ [(TlvKey.amount, (List.replicate 256 0x41#8 : Bytes))], 255 < e.2.length) ∧
      (∀ e ∈ [(TlvKey.operationNumber, [0x37#8])], e.2.length ≤ 255) ∧ bootedState.opSeeded = false ∧
      bootedState.cfg.badFieldPolicy = .abort ∧
      fieldUint [(TlvKey.operationNumber, [0x2D#8])] .operationNumber bootedState.cfg.wOp = .bad ∧
      fieldUint [(TlvKey.operationNumber, [0x37#8])] .operationNumber bootedState.cfg.wOp = .val 7) := by
  decide +kernel

theorem test_witness_DecodedWordIsTheEncodedWord :
    decode ⟨.frame40 0x1FFFFF96FB#40, {}⟩ = .ok (.frameHdr 0xFFFF#16 []) := rfl

theorem test_witness_CrcInitAndReadAccessTheRegister : faultedState.fault = true ∧ State.reset.fault = false := by decide

theorem test_witness_CrcUpdateStepsTheRegister : faultedState.fault = true ∧ State.reset.fault = false := by decide

theorem test_witness_CrcComputeIsInitUpdatesRead : faultedState.fault = true ∧ State.reset.fault = false := by decide

/-- Two updates with a TLV.DEC between them. -/
theorem test_witness_CrcStreamSurvivesInterleaving :
    State.reset.fault = false ∧
    (∀ i ∈ [Instr.crcUpdate 0x01#8, .tlvDec [], .crcUpdate 0x02#8], restartsCrc i = false) ∧
    ∃ t, performAll (.crcInit :: [Instr.crcUpdate 0x01#8, .tlvDec [], .crcUpdate 0x02#8]) State.reset = .next t ∧
      t.fault = false :=
  ⟨rfl, by decide, _, rfl, rfl⟩

theorem test_witness_CrcRegisterFrame :
    (∃ t, exec .hsStatus State.reset = .next t) ∧ restartsCrc .hsStatus = false ∧
    (∀ b, Instr.hsStatus ≠ .crcUpdate b) ∧ ∃ t, exec .crcRead State.reset = .next t :=
  ⟨⟨_, rfl⟩, rfl, by simp, _, rfl⟩

theorem test_witness_TlvEncSerializesInCodeOrder :
    faultedState.fault = true ∧ State.reset.fault = false ∧
    (∃ e ∈ [(TlvKey.amount, List.replicate 256 0x41#8)], 255 < e.2.length) ∧
    State.reset.cfg.Valid ∧ RecordSet.Ok [(TlvKey.amount, List.replicate 255 0x41#8)] ∧
    RecordSet.Known State.reset.cfg.keymap [(TlvKey.amount, List.replicate 255 0x41#8)] := by decide +kernel

theorem test_witness_TlvDecIsTheCursorLoop : faultedState.fault = true ∧ State.reset.fault = false := by decide

theorem test_witness_TlvRoundTrip :
    State.reset.fault = false ∧ State.reset.cfg.Valid ∧ RecordSet.Ok [(TlvKey.amount, [0x31#8])] ∧
    RecordSet.Known State.reset.cfg.keymap [(TlvKey.amount, [0x31#8])] := by decide

theorem test_witness_UnknownKeyIsSkipped :
    (∀ e ∈ [(0x04#8, [0x31#8])], e.2.length ≤ 255) ∧ ((0x77#8, [0xAA#8, 0xBB#8]) : Byte × Bytes).2.length ≤ 255 ∧
    keyOf KeyMap.reference 0x77#8 = none := by decide

theorem test_witness_FirstOccurrenceWins :
    keyOf KeyMap.reference 0x04#8 = some .amount ∧ State.reset.fault = false ∧
    State.reset.cfg.keymap = KeyMap.reference := by decide

theorem test_witness_ZeroPaddingIsHarmless :
    KeyMap.Valid KeyMap.reference ∧ ∀ e ∈ [(0x04#8, [0x31#8])], e.2.length ≤ 255 := by decide

/-- V-TLV-19. -/
theorem test_witness_LongerInputKeepsRecords :
    recGet (tlvDecode KeyMap.reference [0x01#8, 0x03#8, 0x53#8, 0x54#8, 0x41#8]) .messageName = some nameSTA := by
  decide

theorem test_witness_KeyRowsDecodeTheirRecord :
    State.reset.fault = false ∧ keyOf KeyMap.reference 0x0A#8 = some .qrPayload ∧
    (List.replicate 255 0x41#8 : Bytes).length ≤ 255 := by decide +kernel

theorem test_witness_FrmEncBuildsTheFrame :
    faultedState.fault = true ∧ State.reset.fault = false ∧ 255 < (List.replicate 256 0x41#8 : Bytes).length ∧
    (∃ e ∈ recSet [(TlvKey.amount, List.replicate 256 0x41#8)] .messageName nameSTA, 255 < e.2.length) ∧
    nameSTA.length ≤ 255 ∧ (∀ e ∈ recSet [(TlvKey.amount, [0x31#8])] .messageName nameSTA, e.2.length ≤ 255) ∧
    (tlvEncode State.reset.cfg.keymap (recSet [(TlvKey.amount, [0x31#8])] .messageName nameSTA)).length ≤ 65533 := by
  decide +kernel

/-- A KEYMAP of 255 keys, every code but 0x00. -/
def fullKeymap : KeyMap :=
  [(0x01#8, .messageName), (0x02#8, .operationNumber), (0x03#8, .amount), (0x04#8, .keepaliveInterval),
   (0x05#8, .qrPayload)] ++ (List.range 250).map fun n => (BitVec.ofNat 8 (n + 6), .other n)

/-- The longest value. -/
def fullValue : Bytes := List.replicate 255 0x41#8

/-- Every key of that KEYMAP with the longest value: 255 records of 257 bytes are 65535 bytes. -/
def fullRecords : RecordSet := fullKeymap.map fun e => (e.2, fullValue)

theorem fullValue_length : fullValue.length = 255 := List.length_replicate

theorem fullKeymap_valid : { Config.reference with keymap := fullKeymap }.Valid := by
  rw [config_valid_iff]
  refine ⟨⟨?_, ?_, by decide +kernel, by decide +kernel⟩, by decide, by decide, by decide⟩
  · have : IsTrans (Byte × TlvKey) fun a b => a.1.toNat < b.1.toNat := ⟨fun _ _ _ h h' => h.trans h'⟩
    exact List.isChain_iff_pairwise.mp (by decide +kernel)
  · have : (fullKeymap.map fun e => e.2.ordinal).Pairwise (· < ·) := List.isChain_iff_pairwise.mp (by decide +kernel)
    have : (fullKeymap.map Prod.snd).Pairwise fun a b => a.ordinal < b.ordinal := by
      rwa [List.pairwise_map] at this ⊢
    exact this.imp fun h he => by simp [he] at h

theorem recGet_fullRecords {e : Byte × TlvKey} (he : e ∈ fullKeymap) :
    recGet (recSet fullRecords .messageName fullValue) e.2 = some fullValue := by
  rw [recGet_recSet]
  split_ifs
  · rfl
  · revert he
    unfold fullRecords
    generalize fullKeymap = m
    intro he
    induction m with
    | nil => simp at he
    | cons e' m ih =>
      simp only [List.map_cons, recGet]
      split_ifs with h
      · rfl
      · exact ih ((List.mem_cons.mp he).resolve_left fun h' => h (by rw [h']))

/-- PAYLOAD_TOO_LONG in a configuration of the spec. -/
theorem test_witness_FrmEncBuildsTheFrame_long :
    { Config.reference with keymap := fullKeymap }.Valid ∧ fullValue.length ≤ 255 ∧
    (∀ e ∈ recSet fullRecords .messageName fullValue, e.2.length ≤ 255) ∧
    65533 < (tlvEncode fullKeymap (recSet fullRecords .messageName fullValue)).length := by
  refine ⟨fullKeymap_valid, fullValue_length.le, fun e he => ?_, ?_⟩
  · rcases mem_recSet he with rfl | he
    · exact fullValue_length.le
    · obtain ⟨_, _, rfl⟩ := List.mem_map.mp he
      exact fullValue_length.le
  · have h : ∀ e ∈ fullKeymap, (entryBytes (recSet fullRecords .messageName fullValue) e).length = 257 := fun e he => by
      simp only [entryBytes, recGet_fullRecords he, recordBytes, List.length_cons, fullValue_length]
    rw [tlvEncode, List.length_flatMap, List.map_congr_left h]
    decide +kernel

theorem test_witness_EncodedFrameLayout :
    (tlvEncode KeyMap.reference (recSet [] .messageName [])).length ≤ 65533 ∧
    ∃ hi lo : Byte, (frameOf KeyMap.reference [] [])[1]? = some hi ∧ (frameOf KeyMap.reference [] [])[2]? = some lo ∧
      ∃ hi lo : Byte, (frameOf KeyMap.reference [] [])[7]? = some hi ∧ (frameOf KeyMap.reference [] [])[8]? = some lo :=
  ⟨by decide, 0x00#8, 0x04#8, by decide +kernel, by decide +kernel, 0x04#8, 0xCE#8, by decide +kernel,
    by decide +kernel⟩

theorem test_witness_LegacyDecode :
    State.reset.cfg.rxCrcCheck = .off ∧ faultedState.cfg.rxCrcCheck = .off ∧ faultedState.fault = true ∧
    State.reset.fault = false ∧ State.reset.cfg.rxMax < (List.replicate 513 0#8 : Bytes).length ∧
    (List.replicate 512 0#8 : Bytes).length ≤ State.reset.cfg.rxMax ∧
    (List.replicate 8 0#8 : Bytes).length < 9 ∧ 9 ≤ (List.replicate 9 0#8 : Bytes).length := by decide +kernel

theorem test_witness_HardenedDecode :
    (hardened State.reset).cfg.rxCrcCheck = .on ∧ (hardened faultedState).fault = true ∧
    (hardened State.reset).fault = false ∧ (hardened State.reset).cfg.rxMax < (List.replicate 513 0#8 : Bytes).length ∧
    (List.replicate 8 0#8 : Bytes).length < 9 ∧ fSTA150.length ≤ (hardened State.reset).cfg.rxMax ∧
    9 ≤ fSTA150.length := by decide +kernel

/-- V-FRM-15: length 1; V-FRM-16: length 255 of 9 bytes; V-FRM-1: length 12, and its CRC; V-FRM-13: another CRC. -/
theorem test_witness_HardenedDecode_lengths :
    (let buf : Bytes := [0x1F#8, 0x00#8, 0x01#8, 0x96#8, 0xFB#8, 0x00#8, 0x00#8, 0x00#8, 0x00#8];
      buf[1]? = some 0x00#8 ∧ buf[2]? = some 0x01#8 ∧ 1 = (0x00#8).toNat * 256 + (0x01#8).toNat ∧ 1 < 2) ∧
    (let buf : Bytes := [0x1F#8, 0x00#8, 0xFF#8, 0x96#8, 0xFB#8, 0x01#8, 0x00#8, 0x04#8, 0xCE#8];
      buf[1]? = some 0x00#8 ∧ buf[2]? = some 0xFF#8 ∧ 255 = (0x00#8).toNat * 256 + (0xFF#8).toNat ∧
        buf.length < 255 + 5) ∧
    (fSTA150[1]? = some 0x00#8 ∧ fSTA150[2]? = some 0x0C#8 ∧ 12 = (0x00#8).toNat * 256 + (0x0C#8).toNat ∧ 2 ≤ 12 ∧
      12 + 5 ≤ fSTA150.length ∧ fSTA150[3 + 12]? = some 0x46#8 ∧ fSTA150[4 + 12]? = some 0x62#8 ∧
      crc16 (fSTA150.take (3 + 12)) = 0x46#8 ++ 0x62#8) ∧
    crc16 ((fSTA150.set 12 0x30#8).take (3 + 12)) ≠ 0x46#8 ++ 0x62#8 := by decide +kernel

theorem test_witness_ShortBufferIsRejected :
    bootedState.fault = false ∧ (List.replicate 8 0#8 : Bytes).length ≤ bootedState.cfg.rxMax ∧
    (List.replicate 8 0#8 : Bytes).length < 9 ∧ bootedState.booted = true := by decide

theorem test_witness_HardenedFrameRoundTrip :
    (hardened State.reset).fault = false ∧ (hardened State.reset).cfg.Valid ∧
    (hardened State.reset).cfg.rxCrcCheck = .on ∧
    Instr.Wf (hardened State.reset).cfg (.frmEnc nameSTA [(.amount, [0x31#8])]) ∧
    (tlvEncode (hardened State.reset).cfg.keymap (recSet [(.amount, [0x31#8])] .messageName nameSTA)).length ≤ 65533 ∧
    (frameOf (hardened State.reset).cfg.keymap nameSTA [(.amount, [0x31#8])]).length + [0xAA#8].length ≤
      (hardened State.reset).cfg.rxMax := by decide +kernel

/-- F-STA150 (CRC 0x4662, so `lo8` is 98), with three trailing bytes. -/
theorem test_witness_LegacyFrameRoundTrip :
    State.reset.fault = false ∧ State.reset.cfg.Valid ∧ State.reset.cfg.rxCrcCheck = .off ∧
    Instr.Wf State.reset.cfg (.frmEnc nameSTA [(.amount, [0x31#8, 0x35#8, 0x30#8])]) ∧
    frameOf State.reset.cfg.keymap nameSTA [(.amount, [0x31#8, 0x35#8, 0x30#8])] = fSTA150 ∧
    (fSTA150 ++ [0xAA#8, 0xBB#8, 0xCC#8]).length ≤ State.reset.cfg.rxMax ∧
    crc16 (frameHead (namedPayload State.reset.cfg.keymap nameSTA [(.amount, [0x31#8, 0x35#8, 0x30#8])])) =
      0x4662#16 ∧
    3 < (lo8 0x4662#16).toNat ∧
    recGet (recSet [(.amount, [0x31#8, 0x35#8, 0x30#8])] .messageName nameSTA) .messageName = some nameSTA := by
  decide +kernel

/-- The last clause: F-STA1927 (43_handshake R133), whose CRC is 0x0300: an absent key, and length 0. -/
theorem test_witness_LegacyFrameRoundTrip_adds :
    Instr.Wf State.reset.cfg (.frmEnc nameSTA [(.amount, [0x31#8, 0x39#8, 0x32#8, 0x37#8])]) ∧
    crc16 (frameHead (namedPayload State.reset.cfg.keymap nameSTA [(.amount, [0x31#8, 0x39#8, 0x32#8, 0x37#8])])) =
      0x0300#16 ∧
    (lo8 0x0300#16).toNat ≤ ([] : Bytes).length ∧
    keyOf State.reset.cfg.keymap (hi8 0x0300#16) = some .operationNumber ∧
    recGet (recSet [(.amount, [0x31#8, 0x39#8, 0x32#8, 0x37#8])] .messageName nameSTA) .operationNumber = none := by
  decide +kernel

theorem test_witness_LegacyIgnoresTheHeader :
    State.reset.cfg.rxCrcCheck = .off ∧ [0x1F#8, 0x00#8, 0x0C#8, 0x96#8, 0xFB#8].length = 5 ∧
    [0x00#8, 0xFF#8, 0xFF#8, 0x97#8, 0xFB#8].length = 5 := by decide

theorem test_witness_HeaderRowDecodesItsBuffer :
    State.reset.fault = false ∧ State.reset.cfg.rxCrcCheck = .off ∧ 4 ≤ [0x01#8, 0x00#8, 0x04#8, 0xCE#8].length ∧
    [0x01#8, 0x00#8, 0x04#8, 0xCE#8].length + 5 ≤ State.reset.cfg.rxMax := by decide

theorem test_witness_CodecsWriteNoRegister :
    Instr.frameHdr 0#16 [] ∈ [Instr.tlvEnc [], .tlvDec [], .frmEnc [] [], .frmDec [], .hsStatus, .crcRead,
      .keyMessageName [], .keyOperationNumber [], .keyAmount [], .keyKeepaliveInterval [], .keyQrPayload [],
      .frameHdr 0#16 []] ∧
    ∃ t, exec (.frameHdr 0#16 []) State.reset = .next t :=
  ⟨by decide, _, rfl⟩

theorem test_witness_HandshakeGate :
    faultedState.fault = true ∧ (State.reset.fault = false ∧ State.reset.booted = false) ∧
    bootedState.fault = false ∧ bootedState.booted = true := by decide

theorem test_witness_BootAnnouncesTheSession :
    State.reset.fault = false ∧ State.reset.booted = false ∧ 2 ^ 64 - 1 < 2 ^ State.reset.cfg.wTime ∧
    State.reset.opCounter < 10 ^ 255 := by decide +kernel

theorem test_witness_TickSendsWhenTheIntervalRanOut :
    seededState.fault = false ∧ seededState.booted = true ∧
    (1271 < 2 ^ seededState.cfg.wTime ∧ seededState.lastIdl + seededState.cfg.keepaliveInterval < 1271) ∧
    1270 < 2 ^ seededState.cfg.wTime ∧ 1270 ≤ seededState.lastIdl + seededState.cfg.keepaliveInterval ∧
    seededState.opCounter < 10 ^ 255 := by decide +kernel

/-- What the buffers of the witnesses below decode to. -/
theorem test_witness_buffers :
    frameDecode Config.reference fSTA150op20 = .ok
      [(.messageName, nameSTA), (.operationNumber, [0x32#8, 0x30#8]), (.amount, [0x31#8, 0x35#8, 0x30#8])] ∧
    frameDecode Config.reference fSTA150 = .ok [(.messageName, nameSTA), (.amount, [0x31#8, 0x35#8, 0x30#8])] ∧
    frameDecode Config.reference fVRP150 = .ok [(.messageName, nameVRP), (.amount, [0x31#8, 0x35#8, 0x30#8])] ∧
    frameDecode Config.reference fFIN150 = .ok [(.messageName, nameFIN), (.amount, [0x31#8, 0x35#8, 0x30#8])] ∧
    frameDecode Config.reference fVRP99 = .ok [(.messageName, nameVRP), (.amount, [0x39#8, 0x39#8])] ∧
    frameDecode Config.reference fVRP0 = .ok [(.messageName, nameVRP)] ∧
    frameDecode Config.reference fSTAe = .ok [(.messageName, nameSTA), (.amount, [])] ∧
    frameDecode Config.reference fIDLover = .ok
      [(.messageName, nameIDL), (.operationNumber, [0x34#8, 0x32#8, 0x39#8, 0x34#8, 0x39#8, 0x36#8, 0x37#8, 0x32#8,
        0x39#8, 0x36#8])] ∧
    frameDecode Config.reference fIDL7 = .ok [(.messageName, nameIDL), (.operationNumber, [0x37#8])] :=
  ⟨eq_ok_of_decodedIs (by decide +kernel), eq_ok_of_decodedIs (by decide +kernel),
    eq_ok_of_decodedIs (by decide +kernel), eq_ok_of_decodedIs (by decide +kernel),
    eq_ok_of_decodedIs (by decide +kernel), eq_ok_of_decodedIs (by decide +kernel),
    eq_ok_of_decodedIs (by decide +kernel), eq_ok_of_decodedIs (by decide +kernel),
    eq_ok_of_decodedIs (by decide +kernel)⟩

/-- V-HS-20: `r` is what F-STA150op20 decodes to (`test_witness_buffers`), `v` 150, `opn` Val 20, `c` 20. -/
theorem test_witness_StartEvent :
    let r : RecordSet :=
      [(.messageName, nameSTA), (.operationNumber, [0x32#8, 0x30#8]), (.amount, [0x31#8, 0x35#8, 0x30#8])]
    bootedState.fault = false ∧ bootedState.booted = true ∧ bootedState.stage = .idle ∧
    recGet r .messageName = some [0x53#8, 0x54#8, 0x41#8] ∧ fieldUint r .amount bootedState.cfg.wAmt = .val 150 ∧
    bootedState.opSeeded = false ∧ fieldUint r .operationNumber bootedState.cfg.wOp = .val 20 ∧
    20 ≠ 2 ^ bootedState.cfg.wOp - 1 ∧ 20 + 1 < 10 ^ 255 ∧
    seededState.opSeeded = true ∧ seededState.opCounter ≠ 2 ^ seededState.cfg.wOp - 1 := by decide +kernel

/-- V-HS-4: F-VRP150 in Started. -/
theorem test_witness_ReserveConfirmEvent :
    let r : RecordSet := [(.messageName, nameVRP), (.amount, [0x31#8, 0x35#8, 0x30#8])]
    startedState.fault = false ∧ startedState.booted = true ∧ startedState.stage = .started ∧
    recGet r .messageName = some [0x56#8, 0x52#8, 0x50#8] ∧
    fieldUint r .amount startedState.cfg.wAmt = .val startedState.pendingAmount ∧ startedState.opSeeded = true ∧
    startedState.opCounter < 10 ^ 255 := by decide +kernel

/-- V-HS-5: F-FIN150 in Reserved. -/
theorem test_witness_FinalizeConfirmEvent :
    let r : RecordSet := [(.messageName, nameFIN), (.amount, [0x31#8, 0x35#8, 0x30#8])]
    reservedState.fault = false ∧ reservedState.booted = true ∧ reservedState.stage = .reserved ∧
    recGet r .messageName = some [0x46#8, 0x49#8, 0x4E#8] ∧
    fieldUint r .amount reservedState.cfg.wAmt = .val reservedState.pendingAmount ∧ reservedState.opSeeded = true ∧
    reservedState.opCounter < 10 ^ 255 := by decide +kernel

/-- V-HS-6 (F-VRP99 in Started with pending_amount 150), V-HS-24 (F-VRP0 under `ignore`), and a state in Finalized,
which no run reaches. -/
theorem test_witness_UnmatchedMessageMakesNoTransition :
    (let r : RecordSet := [(.messageName, nameVRP), (.amount, [0x39#8, 0x39#8])];
      startedState.fault = false ∧ startedState.booted = true ∧ startedState.stage = .started ∧
      startedState.cfg.badFieldPolicy = .abort ∧ startedState.opSeeded = true ∧
      fieldUint r .amount startedState.cfg.wAmt = .val 99 ∧ 99 ≠ startedState.pendingAmount ∧
      recGet r .messageName = some nameVRP) ∧
    (decodedIs (frameDecode (ignoring startedState).cfg fVRP0) [(.messageName, nameVRP)] = true ∧
      (ignoring startedState).fault = false ∧ (ignoring startedState).booted = true ∧
      (ignoring startedState).cfg.badFieldPolicy ≠ .abort ∧
      fieldUint [(.messageName, nameVRP)] .amount (ignoring startedState).cfg.wAmt = .absent) ∧
    (let s : State := { seededState with stage := .finalized, pendingAmount := 150 };
      s.fault = false ∧ s.booted = true ∧ s.opSeeded = true ∧ s.opCounter < 10 ^ 255 ∧
      fieldUint [(.messageName, nameFIN), (.amount, [0x31#8, 0x35#8, 0x30#8])] .amount s.cfg.wAmt = .val 150) := by
  decide +kernel

theorem test_witness_IdleMessageOnlySeeds :
    bootedState.fault = false ∧ bootedState.booted = true ∧ bootedState.stage ≠ .finalized ∧
    RecordSet.Ok [(TlvKey.operationNumber, [0x37#8])] ∧ bootedState.opSeeded = false ∧
    fieldUint [(TlvKey.operationNumber, [0x37#8])] .operationNumber bootedState.cfg.wOp ≠ .bad := by decide +kernel

/-- The three rows, each in the stage of its event; the start seeds with 20 first. -/
theorem test_witness_MessageRowsCompleteTheirEvents :
    (let r : RecordSet := [(.operationNumber, [0x32#8, 0x30#8]), (.amount, [0x31#8, 0x35#8, 0x30#8])];
      bootedState.fault = false ∧ bootedState.booted = true ∧ RecordSet.Ok r ∧
      fieldUint r .amount bootedState.cfg.wAmt = .val 150 ∧ bootedState.opSeeded = false ∧
      fieldUint r .operationNumber bootedState.cfg.wOp = .val 20 ∧ bootedState.stage = .idle ∧
      20 ≠ 2 ^ bootedState.cfg.wOp - 1) ∧
    (let r : RecordSet := [(.amount, [0x31#8, 0x35#8, 0x30#8])];
      RecordSet.Ok r ∧ fieldUint r .amount 32 = .val 150 ∧ startedState.fault = false ∧ startedState.booted = true ∧
      startedState.opSeeded = true ∧ startedState.stage = .started ∧ 150 = startedState.pendingAmount ∧
      reservedState.fault = false ∧ reservedState.booted = true ∧ reservedState.opSeeded = true ∧
      reservedState.stage = .reserved ∧ 150 = reservedState.pendingAmount) ∧
    (20 + 1 < 10 ^ 255 ∧ startedState.opCounter < 10 ^ 255 ∧ reservedState.opCounter < 10 ^ 255) := by decide +kernel

theorem test_witness_MessageRowsAreHandshakeReceive :
    (∃ r, frameDecode Config.reference fSTA150 = .ok r ∧ recGet r .messageName = some nameSTA) ∧
    (∃ r, frameDecode Config.reference fVRP150 = .ok r ∧ recGet r .messageName = some nameVRP) ∧
    (∃ r, frameDecode Config.reference fFIN150 = .ok r ∧ recGet r .messageName = some nameFIN) ∧
    ∃ r, frameDecode Config.reference fIDL7 = .ok r ∧ recGet r .messageName = some nameIDL :=
  ⟨⟨_, test_witness_buffers.2.1, by decide⟩, ⟨_, test_witness_buffers.2.2.1, by decide⟩,
    ⟨_, test_witness_buffers.2.2.2.1, by decide⟩, _, test_witness_buffers.2.2.2.2.2.2.2.2, by decide⟩

/-- V-HS-29 (F-IDLover), V-HS-26 (F-STAe), V-HS-23 (F-VRP0) and V-HS-32 (F-STA150 at the greatest counter); the buffers
decode as `test_witness_buffers` says. -/
theorem test_witness_AbortEntry :
    (bootedState.fault = false ∧ bootedState.booted = true ∧ bootedState.cfg.badFieldPolicy = .abort) ∧
    (bootedState.opSeeded = false ∧
      fieldUint [(TlvKey.operationNumber, [0x34#8, 0x32#8, 0x39#8, 0x34#8, 0x39#8, 0x36#8, 0x37#8, 0x32#8, 0x39#8,
        0x36#8])] .operationNumber bootedState.cfg.wOp = .bad) ∧
    fieldUint [(TlvKey.messageName, nameSTA), (.amount, [])] .amount bootedState.cfg.wAmt = .bad ∧
    fieldUint [(TlvKey.messageName, nameVRP)] .amount bootedState.cfg.wAmt = .absent ∧
    (let s : State := { seededState with opCounter := 4294967295 };
      s.fault = false ∧ s.booted = true ∧ s.opSeeded = true ∧ s.stage = .idle ∧
      fieldUint [(TlvKey.messageName, nameSTA), (.amount, [0x31#8, 0x35#8, 0x30#8])] .amount s.cfg.wAmt = .val 150 ∧
      s.opCounter = 2 ^ s.cfg.wOp - 1) := by decide +kernel

/-- V-HS-24 (F-VRP0 under `ignore`), and V-HS-32 under `ignore`, where the counter still aborts. -/
theorem test_witness_IgnorePolicyReportsAndContinues :
    (ignoring startedState).fault = false ∧ (ignoring startedState).booted = true ∧
    (ignoring startedState).cfg.badFieldPolicy = .ignore ∧
    decodedIs (frameDecode (ignoring startedState).cfg fVRP0) [(.messageName, nameVRP)] = true ∧
    answer (exec (.hsRx fVRP0) (ignoring startedState)) = some { status := .ignoredNoAmount } ∧
    (after (exec (.hsRx fVRP0) (ignoring startedState))).map (·.fault) = some false ∧
    (after (exec (.hsRx fSTA1) { ignoring seededState with opCounter := 4294967295 })).map (·.fault) = some true ∧
    (after (exec (.hsRx fSTA1) { ignoring seededState with opCounter := 4294967294 })).map (·.fault) = some false := by
  decide +kernel

/-- V-HS-37. -/
theorem test_witness_RejectedBufferIsNoMessage :
    bootedState.fault = false ∧ bootedState.booted = true ∧
    after (exec (.frmDec [0x1F#8, 0x00#8, 0x03#8, 0x96#8, 0xFB#8, 0x00#8, 0x00#8, 0x00#8]) bootedState) =
      some { bootedState with response := some { status := .frameTooShort } } ∧
    Status.frameTooShort ≠ .ok := by decide

theorem test_witness_HandshakeFrame :
    (∃ t, exec (.hsBoot 0) State.reset = .next t) ∧ (∃ t, exec (.hsTick 0) State.reset = .next t) ∧
    (∃ t, exec (.hsRx []) State.reset = .next t) ∧ (∃ t, exec (.msgSta []) State.reset = .next t) ∧
    (∃ t, exec (.msgVrp []) State.reset = .next t) ∧ (∃ t, exec (.msgFin []) State.reset = .next t) ∧
    ∃ t, exec (.msgIdl []) State.reset = .next t :=
  ⟨⟨_, rfl⟩, ⟨_, rfl⟩, ⟨_, rfl⟩, ⟨_, rfl⟩, ⟨_, rfl⟩, ⟨_, rfl⟩, _, rfl⟩

/-- The numbers beside the boundaries of width 8 and of one digit. -/
theorem test_witness_DecimalTextRoundTrip :
    0 < 255 ∧ 255 < 2 ^ 8 ∧ ¬ 256 < 2 ^ 8 ∧ 9 < 10 ^ 1 ∧ ¬ 10 < 10 ^ 1 := by decide

/-- The boundary values of width 8, the bytes beside the digits, a present and an absent key. -/
theorem test_witness_ParseGrammar :
    parseUint [0x32#8, 0x35#8, 0x35#8] 8 = .val 255 ∧ parseUint [0x32#8, 0x35#8, 0x36#8] 8 = .bad ∧
    parseUint [] 8 = .bad ∧ parseUint [0x2F#8] 8 = .bad ∧ parseUint [0x3A#8] 8 = .bad ∧
    recGet [] .amount = none ∧ recGet [(.amount, [])] .amount = some [] := by decide

theorem test_witness_FaultedBlockRefuses :
    faultedState.fault = true ∧ Instr.crcInit ≠ .reset ∧ Instr.crcInit ≠ .hsStatus := by decide

/-- A set fault before, and an abort (V-HS-23). -/
theorem test_witness_FaultIsSticky :
    ((∃ t, exec (.hsRx fVRP0) faultedState = .next t) ∧ faultedState.fault = true) ∧ Instr.hsRx fVRP0 ≠ .reset ∧
    startedState.fault = false ∧ (∃ t, exec (.hsRx fVRP0) startedState = .next t) ∧
    (after (exec (.hsRx fVRP0) startedState)).map (·.fault) = some true :=
  ⟨⟨⟨_, rfl⟩, rfl⟩, by simp, rfl, ⟨_, rfl⟩, by decide +kernel⟩

/-- A start (V-HS-3) presented to a state that meets the invariant. -/
theorem test_witness_StepKeepsTheInvariant :
    (presented seededState [encode (.hsRx fSTA150)]).Inv ∧
    (after (step (presented seededState [encode (.hsRx fSTA150)]))).map (·.stage) = some .started := by decide +kernel

theorem test_witness_ResetMeetsTheInvariant :
    { Config.reference with wAmt := 1, wOp := 1, wTime := 1, rxMax := 0, keepaliveInterval := 0 }.Valid ∧
    { Config.reference with wAmt := 1000, wOp := 1000, wTime := 1000 }.Valid := by decide

theorem test_witness_OperationCounterNeverDecreases :
    seededState.opSeeded = true ∧ Instr.hsRx fSTA150 ≠ .reset ∧
    (after (exec (.hsRx fSTA150) seededState)).map (·.opCounter) = some 8 := by decide +kernel

/-- RESET of a started block, and the three transitions (V-HS-3, V-HS-4, V-HS-5). -/
theorem test_witness_StageWritesAreListed :
    (after (exec .reset startedState)).map (·.stage) = some .idle ∧
    (after (exec (.hsRx fSTA150) seededState)).map (·.stage) = some .started ∧
    (after (exec (.hsRx fVRP150) startedState)).map (·.stage) = some .reserved ∧
    (after (exec (.hsRx fFIN150) reservedState)).map (·.stage) = some .idle ∧
    startedState.stage ≠ .finalized ∧ seededState.stage ≠ .finalized ∧ reservedState.stage ≠ .finalized := by
  decide +kernel

/-- A state whose operation emits a frame (V-HS-3). -/
theorem test_witness_EmittedFramesAreWellFormed :
    seededState.Inv ∧ (answer (exec (.hsRx fSTA150) seededState)).map (·.tx) = some [fVRP150op8] ∧
    8 < 10 ^ 255 ∧ seededState.cfg.wOp ≤ 847 := by decide +kernel

theorem test_witness_CycleIsTickThenReceive :
    (presented bootedState (hsCycle 271 (some fIDL7))).pending = hsCycle 271 (some fIDL7) ∧
    ∃ t, exec (.hsTick 271) (presented bootedState ((hsCycle 271 (some fIDL7)).drop 1)) = .next t :=
  ⟨rfl, _, rfl⟩

/-- Statuses that depend on the configuration: BAD_LENGTH in hardened mode (length field 1), and one of `ignore`. -/
theorem test_witness_EveryOperationCompletes :
    answer (exec (.frmDec [0x1F#8, 0#8, 1#8, 0x96#8, 0xFB#8, 0#8, 0#8, 0#8, 0#8]) (hardened State.reset)) =
      some { status := .badLength } ∧
    answer (exec (.hsRx fVRP0) (ignoring startedState)) = some { status := .ignoredNoAmount } := by decide +kernel

end Sys2Proof.Tests
end

section
/-!
The statements of the family 10_state.
-/

namespace Sys2Proof.Machine

/-- RESET is never refused, in no state (44_system R140): it writes the registers and answers OK. -/
@[simp] theorem exec_reset (s : State) :
    exec .reset s = .next (s.resetRegisters.respond { status := .ok }) := rfl

/-- Settles O1: after power-on by the fields of `State.resetWith`; for RESET by `exec_reset`, whose next state is the
register writes of `State.resetRegisters` and the response, and nothing else of `s`. -/
theorem resetLeavesTableValues : Obligations.ResetLeavesTableValues := by
  unfold Obligations.ResetLeavesTableValues
  constructor
  · intro c
    simp
  · intro s
    rw [exec_reset, State.resetRegisters, State.respond]

end Sys2Proof.Machine
end

section
/-!
The statements of the family 30_encoding.
-/

namespace Sys2Proof.Machine

/-! ### Decimal text -/

/-- Above zero the text is the base-10 digits, most significant first (30_encoding R72). -/
theorem dec_eq_digits {v : Nat} (hv : 0 < v) : dec v = (Nat.digits 10 v).reverse.map digitByte := by
  induction v using Nat.strong_induction_on with
  | _ v ih =>
    rw [dec_eq, Nat.digits_def' (by omega) hv, List.reverse_cons, List.map_append]
    split_ifs with h
    · simp [Nat.div_eq_of_lt h, Nat.mod_eq_of_lt h]
    · rw [ih (v / 10) (by omega) (by omega)]
      rfl

theorem digitByte_ne_zero_char {d : Nat} (h : d < 10) (hd : 0 < d) : digitByte d ≠ 0x30#8 := by
  intro he
  have := congrArg BitVec.toNat he
  rw [digitByte_toNat h, BitVec.toNat_ofNat] at this
  omega

/-- The leading digit of a number above zero is that of its tenth, down to a single digit (30_encoding R72). -/
theorem dec_head?_ne_zero_char {v : Nat} (hv : 0 < v) : (dec v).head? ≠ some 0x30#8 := by
  induction v using Nat.strong_induction_on with
  | _ v ih =>
    rw [dec_eq]
    split_ifs with h
    · simpa using digitByte_ne_zero_char h hv
    · rw [List.head?_append_of_ne_nil _ (dec_ne_nil _)]
      exact ih (v / 10) (by omega) (by omega)

/-- `parse_uint` reads the text of a number back at every width that holds it (30_encoding R72, R73). -/
theorem parseUint_dec (v w : Nat) : parseUint (dec v) w = if v < 2 ^ w then .val v else .bad := by
  have hd : (dec v).all isDigit = true := List.all_eq_true.mpr (dec_digits v)
  simp [parseUint, digitsValue_dec, dec_ne_nil, hd]

/-- Settles O50: `dec_eq` unfolds the text digit by digit, as `Nat.digits` does, and `digitsValue_dec` reads it back. -/
theorem decimalTextRoundTrip : Obligations.DecimalTextRoundTrip := by
  unfold Obligations.DecimalTextRoundTrip
  intro v w
  exact ⟨dec_eq_digits, rfl, dec_head?_ne_zero_char,
    fun n hn h => ⟨List.length_pos_of_ne_nil (dec_ne_nil v), dec_length hn h⟩, parseUint_dec v w⟩

/-! ### What `parse_uint` and `field_uint` accept -/

/-- The left-to-right accumulation of 44_system R143 is the base-10 value of the digits. -/
theorem digitsValue_eq_ofDigits (b : Bytes) :
    digitsValue b = Nat.ofDigits 10 (b.reverse.map fun d => d.toNat - 0x30) := by
  induction b using List.reverseRecOn with
  | nil => rfl
  | append_singleton b d ih =>
    rw [digitsValue_append, ih, List.reverse_append, List.reverse_singleton, List.singleton_append, List.map_cons,
      Nat.ofDigits_cons]
    omega

theorem all_isDigit_iff {b : Bytes} :
    b.all isDigit = true ↔ ∀ d ∈ b, 0x30 ≤ d.toNat ∧ d.toNat ≤ 0x39 := by
  simp [isDigit]

@[simp] theorem digitsValue_zero_char_cons (b : Bytes) : digitsValue (0x30#8 :: b) = digitsValue b := rfl

/-- A leading zero before a non-empty text changes nothing (30_encoding R73). -/
theorem parseUint_zero_char_cons {b : Bytes} (hb : b ≠ []) (w : Nat) :
    parseUint (0x30#8 :: b) w = parseUint b w := by
  have hz : isDigit 0x30#8 = true := by decide
  simp [parseUint, hb, hz]

theorem fieldUint_of_none {r : RecordSet} {k : TlvKey} (h : recGet r k = none) (w : Nat) :
    fieldUint r k w = .absent := by
  rw [fieldUint, h]

theorem fieldUint_of_some {r : RecordSet} {k : TlvKey} {b : Bytes} (h : recGet r k = some b) (w : Nat) :
    fieldUint r k w = parseUint b w := by
  rw [fieldUint, h]

/-- Settles O51: `parseUint` tests exactly the grammar, with the value by `digitsValue_eq_ofDigits` and the digits by
`all_isDigit_iff`. -/
theorem parseGrammar : Obligations.ParseGrammar := by
  unfold Obligations.ParseGrammar
  intro b w
  refine ⟨?_, fun hb => parseUint_zero_char_cons hb w, fun _ _ h => fieldUint_of_none h w,
    fun _ _ h => fieldUint_of_some h w⟩
  rintro v rfl
  simp only [parseUint, all_isDigit_iff, digitsValue_eq_ofDigits]

/-! ### Command codes -/

/-- A code that is none of the thirteen of 30_encoding R75 selects no operation. -/
theorem decodeCommand_of_notMem {code : BitVec 8}
    (h : code ∉ [0x01#8, 0x10#8, 0x11#8, 0x12#8, 0x13#8, 0x20#8, 0x21#8, 0x30#8, 0x31#8, 0x40#8, 0x41#8, 0x42#8, 0x43#8])
    (p : Ports) : decodeCommand code p = .error (.unassignedCommand code) := by
  simp only [List.mem_cons, List.not_mem_nil, or_false, not_or] at h
  simp only [decodeCommand, h, if_false]

/-- Settles O4: the code decodes to `unassignedCommand`, which the block raises as ILLEGAL_COMMAND before any test of
the state. -/
theorem unassignedCommandIsIllegal : Obligations.UnassignedCommandIsIllegal := by
  unfold Obligations.UnassignedCommandIsIllegal
  intro s code p rest hp hcode
  have hd : decode { word := .cmd8 code, ports := p } = .error (.unassignedCommand code) :=
    decodeCommand_of_notMem hcode p
  rw [step_of_pending hp, perform_of_error hd, unassigned, State.raise, State.respond]

end Sys2Proof.Machine
end

section
/-!
The statements of the family 40_crc.
-/

namespace Sys2Proof.Machine

/-! ### The operations of the Checksum Engine past the gate, and the answer of a faulted block -/

theorem exec_crcInit_of_fault {s : State} (h : s.fault = true) : exec .crcInit s = .next (s.raise .faulted) :=
  congrArg _ (unlessFaulted_of_fault h _)

theorem exec_crcInit_of_ok {s : State} (h : s.fault = false) :
    exec .crcInit s = .next ((s.setCrc 0xFFFF#16).respond { status := .ok }) :=
  congrArg _ (unlessFaulted_of_ok h _)

theorem exec_crcUpdate_of_fault {s : State} (h : s.fault = true) (b : Byte) :
    exec (.crcUpdate b) s = .next (s.raise .faulted) :=
  congrArg _ (unlessFaulted_of_fault h _)

theorem exec_crcUpdate_of_ok {s : State} (h : s.fault = false) (b : Byte) :
    exec (.crcUpdate b) s = .next ((s.setCrc (crcStep s.crc b)).respond { status := .ok }) :=
  congrArg _ (unlessFaulted_of_ok h _)

theorem exec_crcRead_of_fault {s : State} (h : s.fault = true) : exec .crcRead s = .next (s.raise .faulted) :=
  congrArg _ (unlessFaulted_of_fault h _)

theorem exec_crcRead_of_ok {s : State} (h : s.fault = false) :
    exec .crcRead s = .next (s.respond { status := .ok, result := .crc s.crc }) :=
  congrArg _ (unlessFaulted_of_ok h _)

theorem exec_crcCompute_of_fault {s : State} (h : s.fault = true) (bs : Bytes) :
    exec (.crcCompute bs) s = .next (s.raise .faulted) :=
  congrArg _ (unlessFaulted_of_fault h _)

theorem exec_crcCompute_of_ok {s : State} (h : s.fault = false) (bs : Bytes) :
    exec (.crcCompute bs) s = .next ((s.setCrc (crc16 bs)).respond { status := .ok, result := .crc (crc16 bs) }) :=
  congrArg _ (unlessFaulted_of_ok h _)

/-! ### The streaming operations, one after another -/

theorem performAll_cons_of_next {i : Instr} {s t : State} (h : exec i s = .next t) (is : List Instr) :
    performAll (i :: is) s = performAll is t := by
  rw [performAll, h]

/-- One CRC.UPDATE per byte and a CRC.READ fold the bytes into `crc` and return it (40_crc R93, R94). -/
theorem performAll_crcUpdates_crcRead (bs : Bytes) {s : State} (h : s.fault = false) :
    performAll (bs.map .crcUpdate ++ [.crcRead]) s =
      .next ((s.setCrc (bs.foldl crcStep s.crc)).respond
        { status := .ok, result := .crc (bs.foldl crcStep s.crc) }) := by
  induction bs generalizing s with
  | nil => exact performAll_cons_of_next (exec_crcRead_of_ok h) []
  | cons b bs ih => exact (performAll_cons_of_next (exec_crcUpdate_of_ok h b) _).trans (ih h)

/-- The index of 40_crc R93 takes the register's high byte. -/
theorem setWidth_shiftRight_eq_hi8 (reg : Word16) : (reg >>> 8).setWidth 8 = hi8 reg :=
  BitVec.eq_of_toNat_eq rfl

/-! ### The obligations -/

/-- Settles O13: CRC.INIT loads the register that `crc16` folds from, and `performAll_crcUpdates_crcRead` is that fold,
by induction on the bytes. -/
theorem crcComputeIsInitUpdatesRead : Obligations.CrcComputeIsInitUpdatesRead := by
  unfold Obligations.CrcComputeIsInitUpdatesRead
  refine ⟨crc16_nil, fun s bs => ⟨(exec_crcCompute_of_fault · bs), (exec_crcCompute_of_ok · bs), fun h => ?_⟩⟩
  have hinit : ((s.setCrc 0xFFFF#16).respond { status := .ok }).fault = false := h
  rw [exec_crcCompute_of_ok h, List.append_assoc, List.singleton_append,
    performAll_cons_of_next (exec_crcInit_of_ok h), performAll_crcUpdates_crcRead bs hinit]
  rfl

/-- Settles O11: the two sides of the gate for CRC.INIT and for CRC.READ. -/
theorem crcInitAndReadAccessTheRegister : Obligations.CrcInitAndReadAccessTheRegister := by
  unfold Obligations.CrcInitAndReadAccessTheRegister
  intro s
  exact ⟨fun h => ⟨exec_crcInit_of_fault h, exec_crcRead_of_fault h⟩,
    fun h => ⟨exec_crcInit_of_ok h, exec_crcRead_of_ok h⟩⟩

/-- Settles O12: past the gate the register takes `crcStep`, whose index is the rule's by
`setWidth_shiftRight_eq_hi8`. -/
theorem crcUpdateStepsTheRegister : Obligations.CrcUpdateStepsTheRegister := by
  unfold Obligations.CrcUpdateStepsTheRegister
  intro s b
  refine ⟨(exec_crcUpdate_of_fault · b), fun h => ?_⟩
  rw [setWidth_shiftRight_eq_hi8]
  exact exec_crcUpdate_of_ok h b

end Sys2Proof.Machine
end

section
/-!
The statements of the family 41_tlv.
-/

namespace Sys2Proof.Machine

/-! ### The operations of the Record Codec past the gate, and the answer of a faulted block -/

theorem exec_tlvEnc_of_fault {s : State} (h : s.fault = true) (r : RecordSet) :
    exec (.tlvEnc r) s = .next (s.raise .faulted) :=
  congrArg _ (unlessFaulted_of_fault h _)

theorem exec_tlvEnc_of_tooLong {s : State} (h : s.fault = false) {r : RecordSet} (hr : anyTooLong r = true) :
    exec (.tlvEnc r) s = .next (s.raise .valueTooLong) :=
  congrArg _ ((unlessFaulted_of_ok h _).trans (if_pos hr))

theorem exec_tlvEnc_of_fits {s : State} (h : s.fault = false) {r : RecordSet} (hr : anyTooLong r = false) :
    exec (.tlvEnc r) s = .next (s.respond { status := .ok, result := .bytes (tlvEncode s.cfg.keymap r) }) :=
  congrArg _ ((unlessFaulted_of_ok h _).trans (if_neg (by simp [hr])))

theorem exec_tlvDec_of_fault {s : State} (h : s.fault = true) (p : Bytes) :
    exec (.tlvDec p) s = .next (s.raise .faulted) :=
  congrArg _ (unlessFaulted_of_fault h _)

theorem exec_tlvDec_of_ok {s : State} (h : s.fault = false) (p : Bytes) :
    exec (.tlvDec p) s = .next (s.respond { status := .ok, result := .records (tlvDecode s.cfg.keymap p) }) :=
  congrArg _ (unlessFaulted_of_ok h _)

/-! ### The cursor loop -/

/-- With fewer than two bytes left there is no key byte and length byte: no round is made (41_tlv R102). -/
theorem tlvFrom_of_length_lt_two (m : KeyMap) {p : Bytes} (hp : p.length < 2) (r : RecordSet) : tlvFrom m p r = r := by
  match p, hp with
  | [], _ => exact tlvFrom_nil m r
  | [c], _ => exact tlvFrom_single m c r

/-- The loop at cursor `i` decodes what stands from `i` on. A round moves the cursor by two or more, so a unit of fuel
for each byte left is enough. -/
theorem tlvCursor_eq_tlvFrom (m : KeyMap) (p : Bytes) (fuel i : Nat) (r : RecordSet) (hf : p.length ≤ fuel + i) :
    tlvCursor m p fuel i r = tlvFrom m (p.drop i) r := by
  induction fuel generalizing i r with
  | zero => rw [List.drop_of_length_le (by omega), tlvFrom_nil, tlvCursor]
  | succ fuel ih =>
    rw [tlvCursor]
    by_cases hhead : p.length < i + 2
    · rw [dif_pos hhead, tlvFrom_of_length_lt_two m (by simp; omega)]
    · have hround : p.drop i = p[i] :: p[i + 1] :: p.drop (i + 2) := by
        rw [List.drop_eq_getElem_cons, List.drop_eq_getElem_cons]
      rw [dif_neg hhead, hround, tlvFrom_cons, List.length_drop, List.drop_drop]
      dsimp only
      by_cases hvalue : p.length < i + 2 + p[i + 1].toNat
      · rw [dif_pos hvalue, if_neg (by omega)]
      · rw [dif_neg hvalue, if_pos (by omega), ih _ _ (by omega), memRead]

/-- TLV.DEC is the loop from cursor 0 and the empty record set. -/
theorem tlvCursor_eq_tlvDecode (m : KeyMap) (p : Bytes) : tlvCursor m p (p.length + 1) 0 [] = tlvDecode m p :=
  tlvCursor_eq_tlvFrom m p _ 0 [] (by omega)

/-- Settles O18: past the gate TLV.DEC returns `tlvDecode`, which is the cursor loop by `tlvCursor_eq_tlvDecode`. -/
theorem tlvDecIsTheCursorLoop : Obligations.TlvDecIsTheCursorLoop := by
  unfold Obligations.TlvDecIsTheCursorLoop
  intro s p
  rw [tlvCursor_eq_tlvDecode]
  exact ⟨(exec_tlvDec_of_fault · p), (exec_tlvDec_of_ok · p)⟩

/-! ### The length of a payload -/

theorem recordsBytes_length (es : List (Byte × Bytes)) :
    (recordsBytes es).length = (es.map fun e => 2 + e.2.length).sum := by
  simp [recordsBytes, List.length_flatMap, Nat.add_comm]

/-- The slots of a record set in the order TLV.ENC visits them, that of KEYMAP. -/
def slotsInCodeOrder (m : KeyMap) (r : RecordSet) : RecordSet :=
  (m.map Prod.snd).filterMap fun k => (recGet r k).map (Prod.mk k)

theorem mem_slotsInCodeOrder {m : KeyMap} {r : RecordSet} {k : TlvKey} {v : Bytes} :
    (k, v) ∈ slotsInCodeOrder m r ↔ k ∈ m.map Prod.snd ∧ recGet r k = some v := by
  simp [slotsInCodeOrder]

/-- TLV.ENC visits every slot of the set once: KEYMAP has each key of the set, and none twice. -/
theorem slotsInCodeOrder_perm {m : KeyMap} (hm : KeyMap.Valid m) {r : RecordSet} (hr : RecordSet.Ok r)
    (hk : RecordSet.Known m r) : (slotsInCodeOrder m r).Perm r := by
  have hkeys : (slotsInCodeOrder m r).Nodup := by
    refine List.Nodup.filterMap (fun k k' e he he' => ?_) hm.2.1
    simp only [Option.mem_def, Option.map_eq_some_iff] at he he'
    obtain ⟨v, -, rfl⟩ := he
    obtain ⟨v', -, h⟩ := he'
    exact (congrArg Prod.fst h).symm
  have hslots : r.Nodup := hr.1.imp fun h he => by simp [he] at h
  refine (List.perm_ext_iff_of_nodup hkeys hslots).mpr fun ⟨k, v⟩ => ?_
  rw [mem_slotsInCodeOrder]
  exact ⟨fun h => mem_of_recGet h.2, fun h => ⟨hk _ h, recGet_of_mem hr h⟩⟩

theorem payloadRecords_values (m : KeyMap) (r : RecordSet) :
    (payloadRecords m r).map Prod.snd = (slotsInCodeOrder m r).map Prod.snd := by
  simp [payloadRecords, slotsInCodeOrder, List.map_filterMap, Function.comp_def]

/-- `len(p) = sum over k ∈ r of (2 + len(r[k]))` (41_tlv R101): the payload holds the values of the set in another
order. -/
theorem tlvEncode_length {m : KeyMap} (hm : KeyMap.Valid m) {r : RecordSet} (hr : RecordSet.Ok r)
    (hk : RecordSet.Known m r) : (tlvEncode m r).length = (r.map fun e => 2 + e.2.length).sum := by
  have hvalues : ((payloadRecords m r).map Prod.snd).Perm (r.map Prod.snd) :=
    payloadRecords_values m r ▸ (slotsInCodeOrder_perm hm hr hk).map Prod.snd
  rw [tlvEncode_eq_records, recordsBytes_length]
  simpa only [List.map_map, Function.comp_def] using (hvalues.map fun v => 2 + v.length).sum_eq

/-- Settles O17: past the gate a set that fits answers `tlvEncode`, in the order of a valid KEYMAP; its length is
`tlvEncode_length`, by `slotsInCodeOrder_perm`. -/
theorem tlvEncSerializesInCodeOrder : Obligations.TlvEncSerializesInCodeOrder := by
  unfold Obligations.TlvEncSerializesInCodeOrder
  refine fun s r => ⟨(exec_tlvEnc_of_fault · r),
    fun h hlong => exec_tlvEnc_of_tooLong h (anyTooLong_eq_true.mpr hlong), fun h hc hr hk => ?_⟩
  have hm := config_keymap_valid hc
  exact ⟨_, exec_tlvEnc_of_fits h (anyTooLong_of_ok hr), rfl, hm.1, tlvEncode_length hm hr hk⟩

/-! ### The first occurrence -/

theorem insertFirst_of_occupied {m : KeyMap} {r : RecordSet} {c : Byte} {k : TlvKey} (hc : keyOf m c = some k)
    {v : Bytes} (hr : recGet r k = some v) (w : Bytes) : insertFirst m r c w = r := by
  simp [insertFirst, hc, hr]

theorem insertFirst_nil {m : KeyMap} {c : Byte} {k : TlvKey} (hc : keyOf m c = some k) (v : Bytes) :
    insertFirst m [] c v = [(k, v)] := by
  simp [insertFirst, hc, recGet, recSet]

/-- Two records with one key: the second finds its slot occupied (41_tlv R105). -/
theorem tlvDecode_same_key_twice {m : KeyMap} {c : Byte} {k : TlvKey} (hc : keyOf m c = some k) {v w : Bytes}
    (hv : v.length ≤ 255) (hw : w.length ≤ 255) : tlvDecode m (recordsBytes [(c, v), (c, w)]) = [(k, v)] := by
  have hslot : recGet [(k, v)] k = some v := if_pos rfl
  calc tlvDecode m (recordsBytes [(c, v), (c, w)])
      = insertFirst m (insertFirst m [] c v) c w := by
        simpa [tlvDecode_eq] using tlvFrom_records m [] [(c, v), (c, w)] [] (by simp [hv, hw])
    _ = [(k, v)] := by rw [insertFirst_nil hc, insertFirst_of_occupied hc hslot]

/-- Settles O22: both inputs are two whole records with one key, as in `tlvDecode_same_key_twice`. -/
theorem firstOccurrenceWins : Obligations.FirstOccurrenceWins := by
  unfold Obligations.FirstOccurrenceWins
  have hfirst : ∀ (m : KeyMap) (c : Byte) (k : TlvKey) (x y : Byte), keyOf m c = some k →
      tlvDecode m [c, 1#8, x, c, 1#8, y] = [(k, [x])] := fun m c k x y hc =>
    tlvDecode_same_key_twice (v := [x]) (w := [y]) hc (by simp) (by simp)
  refine ⟨hfirst, fun s h hm => ?_⟩
  have hAmount : keyOf s.cfg.keymap 0x04#8 = some .amount := by rw [hm]; rfl
  rw [exec_tlvDec_of_ok h, hfirst _ _ _ _ _ hAmount, State.respond]

end Sys2Proof.Machine
end

section
/-!
The statements of the family 42_frame.
-/

namespace Sys2Proof.Machine

/-! ### The operations of the Frame Codec past the gate, and the answer of a faulted block -/

theorem exec_frmEnc_of_fault {s : State} (h : s.fault = true) (name : Bytes) (r : RecordSet) :
    exec (.frmEnc name r) s = .next (s.raise .faulted) :=
  congrArg _ (unlessFaulted_of_fault h _)

/-- A name and a value that do not fit have one status, whichever is tested first (42_frame R111). -/
theorem exec_frmEnc_of_tooLong {s : State} (h : s.fault = false) {name : Bytes} {r : RecordSet}
    (hlong : 255 < name.length ∨ anyTooLong (recSet r .messageName name) = true) :
    exec (.frmEnc name r) s = .next (s.raise .valueTooLong) := by
  refine congrArg _ ((unlessFaulted_of_ok h _).trans ?_)
  by_cases hname : 255 < name.length
  · exact if_pos hname
  · exact (if_neg hname).trans (if_pos (hlong.resolve_left hname))

theorem exec_frmEnc_of_fits {s : State} (h : s.fault = false) {name : Bytes} {r : RecordSet}
    (hname : name.length ≤ 255) (hvalues : anyTooLong (recSet r .messageName name) = false) :
    exec (.frmEnc name r) s = .next
      (if 65533 < (namedPayload s.cfg.keymap name r).length then s.raise .payloadTooLong
       else s.respond { status := .ok, result := .bytes (frameOf s.cfg.keymap name r) }) :=
  congrArg _ ((unlessFaulted_of_ok h _).trans
    ((if_neg (by omega)).trans (if_neg (by simp [hvalues]))))

theorem exec_frmDec_of_fault {s : State} (h : s.fault = true) (buf : Bytes) :
    exec (.frmDec buf) s = .next (s.raise .faulted) :=
  congrArg _ (unlessFaulted_of_fault h _)

theorem exec_frmDec_of_ok {s : State} (h : s.fault = false) (buf : Bytes) :
    exec (.frmDec buf) s = .next (returnDecoded s (frameDecode s.cfg buf)) :=
  congrArg _ (unlessFaulted_of_ok h _)

theorem exec_frmDec_of_error {s : State} (h : s.fault = false) {buf : Bytes} {st : Status}
    (hd : frameDecode s.cfg buf = .error st) : exec (.frmDec buf) s = .next (s.raise st) := by
  rw [exec_frmDec_of_ok h, hd, returnDecoded]

theorem exec_frmDec_of_records {s : State} (h : s.fault = false) {buf : Bytes} {r : RecordSet}
    (hd : frameDecode s.cfg buf = .ok r) :
    exec (.frmDec buf) s = .next (s.respond { status := .ok, result := .records r }) := by
  rw [exec_frmDec_of_ok h, hd, returnDecoded]

/-- A rejected buffer is no message: HS.RX answers the decoder's status (43_handshake R123 line 3). -/
theorem exec_hsRx_of_error {s : State} (h : s.fault = false) (hb : s.booted = true) {buf : Bytes} {st : Status}
    (hd : frameDecode s.cfg buf = .error st) : exec (.hsRx buf) s = .next (s.raise st) := by
  refine congrArg _ ((whenBooted_of_booted h hb _).trans ?_)
  rw [hd, receiveDecoded]

/-! ### The bytes of a frame -/

/-- A frame byte by byte up to its payload (42_frame R117). -/
theorem framePayload_eq_cons (p : Bytes) :
    framePayload p = 0x1F#8 :: hi8 (BitVec.ofNat 16 (2 + p.length)) :: lo8 (BitVec.ofNat 16 (2 + p.length)) ::
      0x96#8 :: 0xFB#8 :: (p ++ be16Bytes (crc16 (frameHead p))) := rfl

/-- The length field of a payload that fits counts the magic and the payload (42_frame R117). -/
theorem lengthField_toNat {n : Nat} (hn : n ≤ 65533) :
    (be16 (hi8 (BitVec.ofNat 16 (2 + n))) (lo8 (BitVec.ofNat 16 (2 + n)))).toNat = 2 + n := by
  rw [be16_halves, BitVec.toNat_ofNat]
  omega

theorem framePayload_payload (p : Bytes) : ((framePayload p).drop 5).take p.length = p := by
  rw [framePayload_drop_header, List.take_left]

/-- The CRC field stands right after the bytes it covers, the high byte first (42_frame R117). -/
theorem framePayload_crc_getElem? (p : Bytes) (i : Nat) :
    (framePayload p)[5 + p.length + i]? = (be16Bytes (crc16 (frameHead p)))[i]? := by
  rw [framePayload, List.getElem?_append_right (by rw [frameHead_length]; omega), frameHead_length]
  congr 1
  omega

theorem framePayload_take (p : Bytes) : (framePayload p).take (5 + p.length) = frameHead p := by
  simpa [Nat.add_comm] using framePayload_take_head p []

/-! ### The tests of hardened mode -/

/-- A field of a buffer is known from its two bytes (20_memory R44). -/
theorem be16At_eq_be16 {buf : Bytes} {a : Nat} {hi lo : Byte} (hhi : buf[a]? = some hi) (hlo : buf[a + 1]? = some lo)
    (h : a + 2 ≤ buf.length) : be16At buf a h = be16 hi lo := by
  rw [be16At, (List.getElem?_eq_some_iff.mp hhi).2, (List.getElem?_eq_some_iff.mp hlo).2]

section Hardened

variable {m : KeyMap} {buf : Bytes} {h9 : 9 ≤ buf.length} {len : Nat} (hlen : (be16At buf 1 (by omega)).toNat = len)
include hlen

theorem decodeHardened_of_badLength (h : len < 2 ∨ buf.length < len + 5) :
    decodeHardened m buf h9 = .error .badLength := by
  subst hlen
  exact dif_pos h

/-- With a length field that fits, the CRC of the first `3 + len` bytes decides (42_frame R113). -/
theorem decodeHardened_of_goodLength (h2 : 2 ≤ len) (hfit : len + 5 ≤ buf.length) :
    decodeHardened m buf h9 =
      if crc16 (buf.take (3 + len)) ≠ be16At buf (3 + len) (by omega) then .error .checksumMismatch
      else .ok (tlvDecode m ((buf.take (3 + len)).drop 5)) := by
  have hpayload : 3 + len - 5 = len - 2 := by omega
  subst hlen
  rw [List.drop_take, hpayload]
  exact dif_neg (by omega)

end Hardened

/-! ### The obligations -/

/-- Settles O30: both operations take the answer of the decoder, `frameDecode_of_short`, which is the same in the two
modes. -/
theorem shortBufferIsRejected : Obligations.ShortBufferIsRejected := by
  unfold Obligations.ShortBufferIsRejected
  intro s buf h hm hshort
  have hd : frameDecode s.cfg buf = .error .frameTooShort := frameDecode_of_short hm hshort
  exact ⟨exec_frmDec_of_error h hd, fun hb => exec_hsRx_of_error h hb hd⟩

/-- Settles O28: the decoder's answer in legacy mode, clause by clause. -/
theorem legacyDecode : Obligations.LegacyDecode := by
  unfold Obligations.LegacyDecode
  intro s buf hc
  exact ⟨(exec_frmDec_of_fault · buf), fun h hm => exec_frmDec_of_error h (frameDecode_of_long hm),
    fun h hm hshort => exec_frmDec_of_error h (frameDecode_of_short hm hshort),
    fun h hm h9 => exec_frmDec_of_records h (frameDecode_legacy hc hm h9)⟩

/-- Settles O29: past the two length tests FRM.DEC is `decodeHardened`, whose fields are the bytes of the statement by
`be16At_eq_be16`. -/
theorem hardenedDecode : Obligations.HardenedDecode := by
  unfold Obligations.HardenedDecode
  intro s buf hc
  refine ⟨(exec_frmDec_of_fault · buf), fun h hm => exec_frmDec_of_error h (frameDecode_of_long hm),
    fun h hm hshort => exec_frmDec_of_error h (frameDecode_of_short hm hshort), ?_⟩
  rintro h hm h9 hi lo len hhi hlo rfl
  have hdec := frameDecode_hardened hc hm h9
  have hlen : (be16At buf 1 (by omega)).toNat = hi.toNat * 256 + lo.toNat := by
    rw [be16At_eq_be16 hhi hlo, be16_toNat]
  refine ⟨fun hbad => exec_frmDec_of_error h (hdec.trans (decodeHardened_of_badLength hlen hbad)), ?_⟩
  intro h2 hfit chi clo hchi hclo
  have hcrc : be16At buf (3 + (hi.toNat * 256 + lo.toNat)) (by omega) = chi ++ clo :=
    be16At_eq_be16 hchi (by rwa [Nat.add_right_comm]) _
  rw [decodeHardened_of_goodLength hlen h2 hfit, hcrc] at hdec
  exact ⟨fun hne => exec_frmDec_of_error h (hdec.trans (if_pos hne)),
    fun heq => exec_frmDec_of_records h (hdec.trans (if_neg (not_not_intro heq)))⟩

/-- Settles O26: the tests of FRM.ENC in order; the frame written out in the statement is `framePayload`. -/
theorem frmEncBuildsTheFrame : Obligations.FrmEncBuildsTheFrame := by
  unfold Obligations.FrmEncBuildsTheFrame
  intro s name r
  refine ⟨(exec_frmEnc_of_fault · name r),
    fun h hlong => exec_frmEnc_of_tooLong h (hlong.imp_right anyTooLong_eq_true.mpr), ?_⟩
  rintro h hname hvalues p rfl
  have hfits : anyTooLong (recSet r .messageName name) = false := by
    simpa [Bool.eq_false_iff, anyTooLong_eq_true] using hvalues
  rw [exec_frmEnc_of_fits h hname hfits]
  refine ⟨fun hlong => congrArg _ (if_pos hlong), ?_⟩
  rintro hp len head c rfl rfl rfl
  exact congrArg _ (if_neg (Nat.not_lt.mpr hp))

/-- Settles O27: the header by `framePayload_eq_cons`, the length field by `lengthField_toNat`, the CRC field and what
it covers by `framePayload_crc_getElem?` and `framePayload_take`. -/
theorem encodedFrameLayout : Obligations.EncodedFrameLayout := by
  unfold Obligations.EncodedFrameLayout
  rintro m name r p f hp hfits rfl
  rw [frameOf, namedPayload, ← hp]
  refine ⟨framePayload_length p, rfl, rfl, rfl, ?_, framePayload_payload p, ?_⟩
  · rw [framePayload_eq_cons]
    rintro hi lo ⟨⟩ ⟨⟩
    exact lengthField_toNat hfits
  · intro hi lo hhi hlo
    rw [show 6 + p.length = 5 + p.length + 1 by omega, framePayload_crc_getElem?] at hlo
    rw [← Nat.add_zero (5 + p.length), framePayload_crc_getElem?] at hhi
    cases hhi
    cases hlo
    rw [be16_halves, framePayload_take]

end Sys2Proof.Machine
end

section
/-!
The statements of the family 43_handshake.
-/

namespace Sys2Proof.Machine

/-! ### The gates of the handshake operations -/

theorem unlessBooted_of_booted {s : State} (h : s.fault = false) (hb : s.booted = true) (rest : State) :
    unlessBooted s rest = s.raise .alreadyBooted :=
  (unlessFaulted_of_ok h _).trans (if_pos hb)

theorem unlessBooted_of_unbooted {s : State} (h : s.fault = false) (hb : s.booted = false) (rest : State) :
    unlessBooted s rest = rest :=
  (unlessFaulted_of_ok h _).trans (if_neg (by simp [hb]))

theorem exec_hsBoot_of_fault {s : State} (h : s.fault = true) (now : Nat) :
    exec (.hsBoot now) s = .next (s.raise .faulted) :=
  congrArg _ (unlessFaulted_of_fault h _)

theorem exec_hsBoot_of_booted {s : State} (h : s.fault = false) (hb : s.booted = true) (now : Nat) :
    exec (.hsBoot now) s = .next (s.raise .alreadyBooted) :=
  congrArg _ (unlessBooted_of_booted h hb _)

theorem exec_hsRx_of_fault {s : State} (h : s.fault = true) (buf : Bytes) :
    exec (.hsRx buf) s = .next (s.raise .faulted) :=
  congrArg _ (whenBooted_of_fault h _)

theorem exec_hsRx_of_unbooted {s : State} (h : s.fault = false) (hb : s.booted = false) (buf : Bytes) :
    exec (.hsRx buf) s = .next (s.raise .notBooted) :=
  congrArg _ (whenBooted_of_unbooted h hb _)

theorem exec_hsTick_of_fault {s : State} (h : s.fault = true) (now : Nat) :
    exec (.hsTick now) s = .next (s.raise .faulted) :=
  congrArg _ (whenBooted_of_fault h _)

theorem exec_hsTick_of_unbooted {s : State} (h : s.fault = false) (hb : s.booted = false) (now : Nat) :
    exec (.hsTick now) s = .next (s.raise .notBooted) :=
  congrArg _ (whenBooted_of_unbooted h hb _)

/-! ### Past the gates -/

/-- A time of W_TIME bits arrives as it is (log entry 3). -/
theorem timePort_of_lt {s : State} {now : Nat} (h : now < 2 ^ s.cfg.wTime) : s.timePort now = now :=
  Nat.mod_eq_of_lt h

theorem exec_hsBoot_of_unbooted {s : State} (h : s.fault = false) (hb : s.booted = false) {now : Nat}
    (hnow : now < 2 ^ s.cfg.wTime) :
    exec (.hsBoot now) s = .next ((s.boot now).respond { status := .ok, tx := [msgIDL (s.boot now)] }) := by
  refine congrArg _ ((unlessBooted_of_unbooted h hb _).trans ?_)
  rw [timePort_of_lt hnow]

/-- More than an interval has elapsed exactly past `last_idl + interval`; a time before `last_idl` is never that late
(43_handshake R131). -/
theorem lt_elapsed_iff {s : State} {interval now : Nat} :
    interval < elapsed s now ↔ s.lastIdl + interval < now := by
  unfold elapsed
  split_ifs <;> omega

/-- HS.TICK past the gate: the test of 43_handshake R131. -/
theorem exec_hsTick_of_booted {s : State} (h : s.fault = false) (hb : s.booted = true) {now : Nat}
    (hnow : now < 2 ^ s.cfg.wTime) :
    exec (.hsTick now) s = .next
      (if s.lastIdl + s.cfg.keepaliveInterval < now then
         (s.setLastIdl now).respond { status := .ok, tx := [msgIDL (s.setLastIdl now)] }
       else s.respond { status := .ok }) := by
  refine congrArg _ ((whenBooted_of_booted h hb _).trans ?_)
  simp only [timePort_of_lt hnow, lt_elapsed_iff]

/-- HS.RX classifies the record set its buffer decodes to (43_handshake R123 lines 4 to 17). -/
theorem exec_hsRx_of_records {s : State} (h : s.fault = false) (hb : s.booted = true) {buf : Bytes} {r : RecordSet}
    (hd : frameDecode s.cfg buf = .ok r) : exec (.hsRx buf) s = .next (classify s r) := by
  refine congrArg _ ((whenBooted_of_booted h hb _).trans ?_)
  rw [hd, receiveDecoded]

/-- Values of a record set FRM.DEC returns have at most 255 bytes. -/
theorem frameDecode_fits {c : Config} {buf : Bytes} {r : RecordSet} (hd : frameDecode c buf = .ok r) :
    ∀ e ∈ r, e.2.length ≤ 255 := by
  rcases frameDecode_cases c buf with ⟨st, -, he⟩ | ⟨p, he⟩
  · cases hd.symm.trans he
  · cases hd.symm.trans he
    exact tlvDecode_fits _ _

/-! ### Seeding and the three events, for a classified record set -/

/-- Seeding as one update: both registers keep their value where nothing is seeded (43_handshake R125). -/
theorem rxSeed_eq (opn : Field) (s : State) :
    rxSeed opn s = { s with opCounter := seededCounter s opn, opSeeded := s.opSeeded || isVal opn } := by
  cases opn <;> simp [rxSeed, seededCounter, isVal, State.seed]

theorem rxSeed_start (opn : Field) (s : State) (v : Nat) :
    (rxSeed opn s).start v =
      { s with stage := .started, pendingAmount := v, opCounter := seededCounter s opn + 1, opSeeded := true } := by
  rw [rxSeed_eq, State.start]

theorem rxSeed_setStage (opn : Field) (s : State) (g : Stage) :
    (rxSeed opn s).setStage g =
      { s with stage := g, opCounter := seededCounter s opn, opSeeded := s.opSeeded || isVal opn } := by
  rw [rxSeed_eq, State.setStage]

section Events

variable {s : State} {r : RecordSet} {v : Nat} (hamt : fieldUint r .amount s.cfg.wAmt = .val v)
  (hopn : opnField s r = .bad → s.cfg.badFieldPolicy = .ignore)
include hamt hopn

/-- A record set with a handshake name and a parsed amount aborts on nothing but an unparseable operation number or an
overflow of the counter; otherwise it seeds and then takes the transitions (43_handshake R123). -/
theorem classify_of_amount {name : Bytes} (hname : recGet r .messageName = some name)
    (hhs : isHandshakeName (some name) = true)
    (hroom : name = nameSTA → s.stage = .idle → seededCounter s (opnField s r) ≠ 2 ^ s.cfg.wOp - 1) {x : Rx}
    (hx : rxTransitions (some name) (.val v) (rxSeed (opnField s r) s) = x) :
    classify s r = x.st.respond
      { status := if opnField s r = .bad then .ignoredBadValue else .ok, tx := x.tx, event := x.event } := by
  have hfield : amtField s r = .val v := by rw [amtField, hname, if_pos hhs, hamt]
  have hcause : abortCause s (some name) (opnField s r) (.val v) = none :=
    abortCause_eq_none.mpr ⟨hopn, by simp, fun hn hs _ => hroom (Option.some.inj hn) hs⟩
  have hstatus : rxStatus (some name) (opnField s r) (.val v) =
      if opnField s r = .bad then .ignoredBadValue else .ok := by
    simp [rxStatus]
  simp only [classify, hname, hfield, hcause, hstatus, hx]

theorem classify_start (hname : recGet r .messageName = some nameSTA) (hstage : s.stage = .idle)
    (hroom : seededCounter s (opnField s r) ≠ 2 ^ s.cfg.wOp - 1) {u : State}
    (hu : (rxSeed (opnField s r) s).start v = u) :
    classify s r = u.respond
      { status := if opnField s r = .bad then .ignoredBadValue else .ok, tx := [msgVRP u], event := .start } := by
  subst hu
  exact classify_of_amount hamt hopn hname (by decide) (fun _ _ => hroom)
    (rxTransitions_start ⟨rfl, by simpa using hstage, rfl⟩)

theorem classify_reserve (hname : recGet r .messageName = some nameVRP) (hstage : s.stage = .started)
    (hv : v = s.pendingAmount) {u : State} (hu : (rxSeed (opnField s r) s).setStage .reserved = u) :
    classify s r = u.respond
      { status := if opnField s r = .bad then .ignoredBadValue else .ok, tx := [msgFIN u],
        event := .reserveConfirm } := by
  subst hu
  exact classify_of_amount hamt hopn hname (by decide) (fun hn => absurd hn (by decide))
    (rxTransitions_reserve ⟨rfl, by simpa using hstage, by simpa using hv⟩)

/-- The IDL message is built in Finalized, before the session's reset (43_handshake R128, R129). -/
theorem classify_finalize (hname : recGet r .messageName = some nameFIN) (hstage : s.stage = .reserved)
    (hv : v = s.pendingAmount) {u : State} (hu : (rxSeed (opnField s r) s).setStage .finalized = u) :
    classify s r = u.endSession.respond
      { status := if opnField s r = .bad then .ignoredBadValue else .ok, tx := [msgIDL u],
        event := .finalizeConfirm } := by
  subst hu
  exact classify_of_amount hamt hopn hname (by decide) (fun hn => absurd hn (by decide))
    (rxTransitions_finalize ⟨rfl, by simpa using hstage, by simpa using hv⟩)

end Events

/-! ### The obligations -/

/-- Settles O38: `exec_hsTick_of_booted` states the test as the obligation does; the frame is `msgIDL_of_fits`. -/
theorem tickSendsWhenTheIntervalRanOut : Obligations.TickSendsWhenTheIntervalRanOut := by
  unfold Obligations.TickSendsWhenTheIntervalRanOut
  intro s now h hb hnow
  rw [exec_hsTick_of_booted h hb hnow]
  refine ⟨fun hlate => ⟨msgIDL (s.setLastIdl now), fun hc => msgIDL_of_fits hc, ?_⟩, fun hearly => ?_⟩
  · rw [if_pos hlate]
    rfl
  · rw [if_neg (Nat.not_lt.mpr hearly)]
    rfl

/-- Settles O39: HS.RX classifies the decoded set, which is a start event by `classify_start`; the amount was read from
a value of at most 255 bytes, so the VRP message is a `Frame` wherever the counter fits. -/
theorem startEvent : Obligations.StartEvent := by
  unfold Obligations.StartEvent
  intro s r v c opn h hb hstage hname hamt hopn hbad hc hroom buf hd
  obtain rfl : opn = opnField s r := hopn
  obtain rfl : c = seededCounter s (opnField s r) := hc.trans (by cases opnField s r <;> rfl)
  have hv : v < 10 ^ 255 := fieldUint_lt_of_fits (frameDecode_fits hd) hamt
  rw [exec_hsRx_of_records h hb hd, classify_start hamt hbad hname hstage hroom (rxSeed_start ..)]
  refine ⟨msgVRP _, fun hfits => ?_, rfl⟩
  exact msgVRP_of_fits hfits hv

/-- Settles O40: as O39, with `classify_reserve`; the FIN message carries the counter after seeding. -/
theorem reserveConfirmEvent : Obligations.ReserveConfirmEvent := by
  unfold Obligations.ReserveConfirmEvent
  intro s r c opn h hb hstage hname hamt hopn hbad hc buf hd
  obtain rfl : opn = opnField s r := hopn
  obtain rfl : c = seededCounter s (opnField s r) := hc.trans (by cases opnField s r <;> rfl)
  have hv : s.pendingAmount < 10 ^ 255 := fieldUint_lt_of_fits (frameDecode_fits hd) hamt
  rw [exec_hsRx_of_records h hb hd, classify_reserve hamt hbad hname hstage rfl (rxSeed_setStage ..)]
  refine ⟨msgFIN _, fun hfits => ?_, rfl⟩
  exact msgFIN_of_fits hfits hv

/-- Settles O41: as O39, with `classify_finalize`, whose next state is already past the session's reset. -/
theorem finalizeConfirmEvent : Obligations.FinalizeConfirmEvent := by
  unfold Obligations.FinalizeConfirmEvent
  intro s r c opn h hb hstage hname hamt hopn hbad hc buf hd
  obtain rfl : opn = opnField s r := hopn
  obtain rfl : c = seededCounter s (opnField s r) := hc.trans (by cases opnField s r <;> rfl)
  rw [exec_hsRx_of_records h hb hd, classify_finalize hamt hbad hname hstage rfl (rxSeed_setStage ..)]
  refine ⟨msgIDL _, fun hfits => ?_, rfl⟩
  exact msgIDL_of_fits hfits

/-- Settles O36: one refusal for each operation and gate. -/
theorem handshakeGate : Obligations.HandshakeGate := by
  unfold Obligations.HandshakeGate
  intro s now buf
  exact ⟨fun h => ⟨exec_hsBoot_of_fault h now, exec_hsRx_of_fault h buf, exec_hsTick_of_fault h now⟩,
    fun h hb => ⟨exec_hsRx_of_unbooted h hb buf, exec_hsTick_of_unbooted h hb now⟩,
    fun h hb => exec_hsBoot_of_booted h hb now⟩

/-- Settles O37: the writes are those of `State.boot`, which leaves the counter the IDL message carries. -/
theorem bootAnnouncesTheSession : Obligations.BootAnnouncesTheSession := by
  unfold Obligations.BootAnnouncesTheSession
  intro s now h hb hnow
  rw [exec_hsBoot_of_unbooted h hb hnow]
  exact ⟨msgIDL (s.boot now), fun hc => msgIDL_of_fits hc, rfl⟩

end Sys2Proof.Machine
end

section
/-!
The statements of the family 44_system.
-/

namespace Sys2Proof.Machine

/-- HS.STATUS passes no gate: it answers OK in every state, and the response is its only write (44_system R141). -/
@[simp] theorem exec_hsStatus (s : State) :
    exec .hsStatus s = .next (s.respond { status := .ok, result := .registers s.registers }) := rfl

@[simp] theorem State.registers_stage (s : State) : s.registers.stage = s.stage := rfl

/-- Finalized is left inside the operation that reaches it, so no state the host can look at is in it (10_state R35). -/
theorem State.Inv.stage_ne_finalized {s : State} (h : s.Inv) : s.stage ≠ .finalized := by
  obtain ⟨-, -, hstage, -⟩ := h
  exact hstage

/-- Settles O2: `exec_hsStatus` has no condition on the state, and `State.registers` is the record of the statement;
the stage it reports is the one the invariant keeps from being Finalized. -/
theorem statusReadsTheRegisters : Obligations.StatusReadsTheRegisters := by
  unfold Obligations.StatusReadsTheRegisters
  intro s
  constructor
  · rw [exec_hsStatus, State.respond, State.registers]
  · intro hinv
    rw [State.registers_stage]
    exact hinv.stage_ne_finalized

end Sys2Proof.Machine
end

section
/-!
The statements of the family other, first part: code words and their instructions, and the step that runs them.
-/

namespace Sys2Proof.Machine

/-! ### The frame header's code word -/

/-- The length field is an operand: it stands in the middle sixteen bits of the header (20_memory R46). -/
theorem headerWord_extractLsb' (len : Word16) : (headerWord len).extractLsb' 16 16 = len := by
  ext i hi
  have hmid : 16 + i < 32 := by omega
  simp [headerWord_getLsbD, hmid, BitVec.getLsbD_eq_getElem hi]

theorem decodeHeader_headerWord (len : Word16) (p : Ports) :
    decodeHeader (headerWord len) p = .ok (.frameHdr len p.bytes) := by
  rw [decodeHeader, if_pos (Laws.TableFit.headerWord_masked len), headerWord_extractLsb']

/-- Settles O7: every word but the header's is a constant of the tables; the header keeps its length field by
`decodeHeader_headerWord`. -/
theorem decodeInvertsEncode : Obligations.DecodeInvertsEncode := by
  unfold Obligations.DecodeInvertsEncode
  intro i
  cases i
  case frameHdr len rest => exact decodeHeader_headerWord len _
  all_goals rfl

/-- A word with the fixed bits of the header is the header word of its own length field, bit for bit. -/
theorem headerWord_of_masked {header : BitVec 40} (h : header &&& 0xFF0000FFFF#40 = 0x1F000096FB#40) :
    headerWord (header.extractLsb' 16 16) = header := by
  apply BitVec.eq_of_getLsbD_eq
  intro i hi
  have hbit : (header.getLsbD i && decide (i < 16 ∨ 32 ≤ i)) = (0x1F000096FB#40).getLsbD i := by
    rw [← header_mask i hi, ← BitVec.getLsbD_and, h]
  rw [headerWord_getLsbD]
  split_ifs with h16 h32
  · rw [← header_pattern_low i h16, ← hbit]
    simp [h16]
  · have hmid : i - 16 < 16 := by omega
    have hadd : 16 + (i - 16) = i := by omega
    simp [hmid, hadd]
  · rw [← header_pattern_high i (by omega) hi, ← hbit]
    simp [Nat.not_lt.mp h32]

/-! ### Each decoder answers only its own words -/

theorem encode_word_of_decodeCommand {code : BitVec 8} {p : Ports} {i : Instr} (h : decodeCommand code p = .ok i) :
    (encode i).word = .cmd8 code := by
  have hcode := not_imp_comm.mp (decodeCommand_of_notMem (p := p)) (by rw [h]; exact nofun)
  simp only [List.mem_cons, List.not_mem_nil, or_false] at hcode
  rcases hcode with rfl | rfl | rfl | rfl | rfl | rfl | rfl | rfl | rfl | rfl | rfl | rfl | rfl <;> cases h <;> rfl

theorem encode_word_of_decodeName {name : BitVec 24} {p : Ports} {i : Instr} (h : decodeName name p = .ok i) :
    (encode i).word = .msgName24 name := by
  unfold decodeName at h
  split_ifs at h <;> cases h <;> subst_vars <;> rfl

theorem encode_word_of_decodeKey {key : BitVec 8} {p : Ports} {i : Instr} (h : decodeKey key p = .ok i) :
    (encode i).word = .tlvKey8 key := by
  unfold decodeKey at h
  split_ifs at h <;> cases h <;> subst_vars <;> rfl

theorem encode_word_of_decodeHeader {header : BitVec 40} {p : Ports} {i : Instr}
    (h : decodeHeader header p = .ok i) : (encode i).word = .frame40 header := by
  unfold decodeHeader at h
  split_ifs at h with hmask
  cases h
  rw [encode, headerWord_of_masked hmask]

/-- Settles O8: one decoder for each format, each inverted on its own words. -/
theorem decodedWordIsTheEncodedWord : Obligations.DecodedWordIsTheEncodedWord := by
  unfold Obligations.DecodedWordIsTheEncodedWord
  rintro ⟨word, p⟩ i h
  cases word with
  | cmd8 code => exact encode_word_of_decodeCommand h
  | msgName24 name => exact encode_word_of_decodeName h
  | tlvKey8 key => exact encode_word_of_decodeKey h
  | frame40 header => exact encode_word_of_decodeHeader h

/-- Settles O6: each word is looked up in the table of its width. -/
theorem tableWordsDecode : Obligations.TableWordsDecode := by
  unfold Obligations.TableWordsDecode
  decide

/-! ### The step -/

/-- Settles O3: the two sides of `step`, by whether a request is presented. -/
theorem stepRunsThePresentedInstruction : Obligations.StepRunsThePresentedInstruction := by
  unfold Obligations.StepRunsThePresentedInstruction
  refine ⟨fun s q rest i hp hd => ?_, fun s hp => step_of_waiting hp⟩
  rw [step_of_pending hp, perform_of_ok hd]

end Sys2Proof.Machine
end

section
/-!
The statements of the family other, second part: CRC16 as a function, its table and its residue.
-/

namespace Sys2Proof.Machine

/-! ### The table -/

/-- Settles O9: the table is data, so its 256 entries are compared one by one. -/
theorem crcTableIsTheConstruction : Obligations.CrcTableIsTheConstruction := by
  unfold Obligations.CrcTableIsTheConstruction
  decide +kernel

/-! ### The bit-serial register -/

/-- A round is linear: shift and conditional xor both distribute over xor. -/
theorem crcShift_xor (a b : Word16) : crcShift (a ^^^ b) = crcShift a ^^^ crcShift b := by
  simp only [crcShift, BitVec.msb_xor, BitVec.shiftLeft_xor_distrib]
  cases a.msb <;> cases b.msb
  case true.true =>
    have hcancel : (a <<< 1 ^^^ 0x1021#16) ^^^ (b <<< 1 ^^^ 0x1021#16) =
        a <<< 1 ^^^ b <<< 1 ^^^ (0x1021#16 ^^^ 0x1021#16) := by ac_rfl
    simp [hcancel]
  all_goals
    simp only [Bool.xor_false, Bool.false_xor, Bool.false_eq_true, if_true, if_false]
  all_goals ac_rfl

theorem crcShift8_xor (a b : Word16) : crcShift8 (a ^^^ b) = crcShift8 a ^^^ crcShift8 b := by
  simp only [crcShift8, crcShift_xor]

/-- While a byte moves up through the low half no bit leaves the register: a round is the shift alone. -/
theorem crcShift_byte (b : Byte) {k : Nat} (hk : k < 8) :
    crcShift (b.setWidth 16 <<< k) = b.setWidth 16 <<< (k + 1) := by
  have hmsb : (b.setWidth 16 <<< k).msb = false := by
    simp [BitVec.msb_eq_getLsbD_last, BitVec.getLsbD_of_ge b (15 - k) (by omega)]
  rw [crcShift, hmsb, if_neg (by simp), BitVec.shiftLeft_add]

theorem crcShift8_byte (b : Byte) : crcShift8 (b.setWidth 16) = b.setWidth 16 <<< 8 := by
  have h0 : b.setWidth 16 = b.setWidth 16 <<< 0 := by simp
  rw [crcShift8]
  conv_lhs => rw [h0]
  simp only [crcShift_byte b, Nat.reduceLT, Nat.reduceAdd]

theorem word_eq_halves (v : Word16) : v = (hi8 v).setWidth 16 <<< 8 ^^^ (lo8 v).setWidth 16 := by
  ext i hi
  by_cases hlow : i < 8
  · simp [hi8, lo8, hlow, BitVec.getLsbD_eq_getElem hi]
  · have hhigh : i - 8 < 8 := by omega
    have hadd : 8 + (i - 8) = i := by omega
    simp [hi8, lo8, hlow, hhigh, hadd, BitVec.getLsbD_eq_getElem hi]

theorem lo8_shift (v : Word16) : (lo8 v).setWidth 16 <<< 8 = v <<< 8 := by
  ext i hi
  have hbit : i - 8 < 8 := by omega
  simp [lo8, hbit, BitVec.getLsbD_eq_getElem (show i - 8 < 16 by omega)]

/-- Settles O10: the register with the byte xored in is the table index in the high half and the low half of the
register; on the first the rounds are the table (O9), on the second the shift. -/
theorem crcStepIsBitSerial : Obligations.CrcStepIsBitSerial := by
  unfold Obligations.CrcStepIsBitSerial
  intro reg b
  have hsplit : reg ^^^ (b.setWidth 16 <<< 8) =
      ((hi8 reg ^^^ b).setWidth 16 <<< 8) ^^^ (lo8 reg).setWidth 16 := by
    conv_lhs => rw [word_eq_halves reg]
    rw [BitVec.setWidth_xor, BitVec.shiftLeft_xor_distrib, BitVec.xor_assoc, BitVec.xor_assoc,
      BitVec.xor_comm (b.setWidth 16 <<< 8)]
  calc crcStep reg b
      = crcTable (hi8 reg ^^^ b) ^^^ reg <<< 8 := BitVec.xor_comm ..
    _ = crcShift8 ((hi8 reg ^^^ b).setWidth 16 <<< 8) ^^^ crcShift8 ((lo8 reg).setWidth 16) := by
        rw [crcTableIsTheConstruction, crcShift8_byte, lo8_shift]
    _ = crcShift8 (reg ^^^ (b.setWidth 16 <<< 8)) := by rw [hsplit, crcShift8_xor]

/-! ### The residue -/

/-- Settles O15: each CRC byte equals the high half of the register it meets, so both steps are the shift alone, and
two shifts empty the register. -/
theorem crcResidueIsZero : Obligations.CrcResidueIsZero := by
  unfold Obligations.CrcResidueIsZero
  intro bs
  rw [crc16_append, List.foldl_cons, List.foldl_cons, List.foldl_nil, crcStep_hi8, ← hi8_shift, crcStep_hi8,
    shift_shift]

end Sys2Proof.Machine
end

section
/-!
The statements of the family other, third part: what TLV.DEC finds in records and in what follows them.
-/

namespace Sys2Proof.Machine

/-! ### What a run of records leaves in a slot -/

/-- The value of the first record whose key byte denotes `k` (41_tlv R102). -/
def firstValue (m : KeyMap) (es : List (Byte × Bytes)) (k : TlvKey) : Option Bytes :=
  es.findSome? fun e => if keyOf m e.1 = some k then some e.2 else none

@[simp] theorem firstValue_nil (m : KeyMap) (k : TlvKey) : firstValue m [] k = none := rfl

theorem firstValue_cons (m : KeyMap) (e : Byte × Bytes) (es : List (Byte × Bytes)) (k : TlvKey) :
    firstValue m (e :: es) k = if keyOf m e.1 = some k then some e.2 else firstValue m es k := by
  rw [firstValue, List.findSome?_cons]
  split_ifs <;> rfl

/-- A round fills a slot only if it is empty and the key byte denotes it. -/
theorem recGet_insertFirst (m : KeyMap) (r : RecordSet) (c : Byte) (v : Bytes) (k : TlvKey) :
    recGet (insertFirst m r c v) k = (recGet r k).or (if keyOf m c = some k then some v else none) := by
  cases hr : recGet r k with
  | some w => exact recGet_insertFirst_of_some hr c v
  | none =>
    split_ifs with hc
    · exact recGet_insertFirst_self hc hr v
    · cases hk : keyOf m c with
      | none => simpa [insertFirst_of_unknown hk] using hr
      | some k' =>
        have hne : k' ≠ k := fun h => hc (h ▸ hk)
        simp only [insertFirst, hk]
        split_ifs <;> simp [recGet_recSet, hne, hr]

/-- A slot found filled stays; an empty one takes the first record of its key. -/
theorem recGet_insertRecords (m : KeyMap) (es : List (Byte × Bytes)) (r : RecordSet) (k : TlvKey) :
    recGet (es.foldl (fun r e => insertFirst m r e.1 e.2) r) k = (recGet r k).or (firstValue m es k) := by
  induction es generalizing r with
  | nil => simp
  | cons e es ih =>
    rw [List.foldl_cons, ih, recGet_insertFirst, Option.or_assoc, firstValue_cons]
    split_ifs <;> simp

theorem tlvDecode_records (m : KeyMap) {es : List (Byte × Bytes)} (h : ∀ e ∈ es, e.2.length ≤ 255) :
    tlvDecode m (recordsBytes es) = es.foldl (fun r e => insertFirst m r e.1 e.2) [] := by
  simpa [tlvDecode_eq] using tlvFrom_records m [] es [] h

theorem recGet_tlvDecode_records (m : KeyMap) {es : List (Byte × Bytes)} (h : ∀ e ∈ es, e.2.length ≤ 255)
    (k : TlvKey) : recGet (tlvDecode m (recordsBytes es)) k = firstValue m es k := by
  rw [tlvDecode_records m h, recGet_insertRecords]
  rfl

/-! ### The form of a decoded set -/

theorem tlvDecode_ok (m : KeyMap) (p : Bytes) : RecordSet.Ok (tlvDecode m p) :=
  tlvFrom_induction (motive := RecordSet.Ok) (fun _ c _ hv h => insertFirst_ok h c hv) _ _ _ le_rfl ok_nil

theorem tlvDecode_known (m : KeyMap) (p : Bytes) : RecordSet.Known m (tlvDecode m p) :=
  tlvFrom_induction (motive := RecordSet.Known m) (fun _ c v _ h => insertFirst_known h c v) _ _ _ le_rfl (known_nil m)

/-- Settles O19: the empty set has the form, and every round keeps it. -/
theorem decodedRecordSetsAreRecordSets : Obligations.DecodedRecordSetsAreRecordSets := by
  unfold Obligations.DecodedRecordSetsAreRecordSets
  exact fun m p => ⟨tlvDecode_ok m p, tlvDecode_known m p⟩

/-! ### The round trip -/

theorem mem_payloadRecords_of_mem {m : KeyMap} {r : RecordSet} {c : Byte} {k : TlvKey} {v : Bytes} (hc : (c, k) ∈ m)
    (hv : recGet r k = some v) : (c, v) ∈ payloadRecords m r :=
  List.mem_filterMap.mpr ⟨(c, k), hc, by rw [hv, Option.map_some]⟩

/-- The payload's only record of a key is the set's own value, for a valid KEYMAP gives no other key its code. -/
theorem firstValue_payloadRecords {m : KeyMap} (hm : KeyMap.Valid m) {r : RecordSet}
    (hk : RecordSet.Known m r) (k : TlvKey) : firstValue m (payloadRecords m r) k = recGet r k := by
  cases hf : firstValue m (payloadRecords m r) k with
  | some v =>
    obtain ⟨⟨c, w⟩, hmem, he⟩ := List.exists_of_findSome?_eq_some hf
    obtain ⟨k', hck, hw⟩ := mem_payloadRecords hmem
    rw [keyOf_of_mem hm hck] at he
    split_ifs at he with hkk
    cases hkk
    cases he
    exact hw.symm
  | none =>
    refine (Option.eq_none_iff_forall_ne_some.mpr fun v hv => ?_).symm
    obtain ⟨⟨c, _⟩, hc, rfl⟩ := List.mem_map.mp (hk _ (mem_of_recGet hv))
    have hskip := List.findSome?_eq_none_iff.mp hf _ (mem_payloadRecords_of_mem hc hv)
    simp [keyOf_of_mem hm hc] at hskip

/-- TLV.DEC reads back what TLV.ENC wrote (41_tlv R103). -/
theorem tlvDecode_tlvEncode {m : KeyMap} (hm : KeyMap.Valid m) {r : RecordSet} (hr : RecordSet.Ok r)
    (hk : RecordSet.Known m r) : tlvDecode m (tlvEncode m r) = r := by
  refine recordSet_ext (tlvDecode_ok _ _) hr fun k => ?_
  rw [tlvEncode_eq_records, recGet_tlvDecode_records m (payloadRecords_short hr), firstValue_payloadRecords hm hk]

/-- Settles O20: TLV.ENC answers `tlvEncode`, which `tlvDecode_tlvEncode` reads back. -/
theorem tlvRoundTrip : Obligations.TlvRoundTrip := by
  unfold Obligations.TlvRoundTrip
  intro s r h hc hr hk
  refine ⟨_, _, exec_tlvEnc_of_fits h (anyTooLong_of_ok hr), rfl, ?_⟩
  rw [exec_tlvDec_of_ok (by exact h), State.respond_cfg, tlvDecode_tlvEncode (config_keymap_valid hc) hr hk]
  rfl

/-! ### What follows whole records -/

/-- Decoding goes on after whole records with what they left. -/
theorem tlvDecode_records_append (m : KeyMap) {es : List (Byte × Bytes)} (h : ∀ e ∈ es, e.2.length ≤ 255)
    (rest : Bytes) : tlvDecode m (recordsBytes es ++ rest) = tlvFrom m rest (tlvDecode m (recordsBytes es)) := by
  rw [tlvDecode_records m h, tlvDecode_eq, tlvFrom_records m rest es [] h]

/-- Settles O21: the unknown record is one round, and it inserts nothing. -/
theorem unknownKeyIsSkipped : Obligations.UnknownKeyIsSkipped := by
  unfold Obligations.UnknownKeyIsSkipped
  intro m a u b ha hu hkey
  rw [tlvDecode_records_append m ha, tlvDecode_records_append m ha, tlvFrom_record m u.1 hu,
    insertFirst_of_unknown hkey]

/-- Two zero bytes are a record of length 0 whose key byte denotes no key. -/
theorem tlvFrom_zeros {m : KeyMap} (hm : KeyMap.Valid m) (r : RecordSet) (n : Nat) :
    tlvFrom m (List.replicate n 0#8) r = r := by
  induction n using Nat.twoStepInduction with
  | zero => rfl
  | one => rfl
  | more n ih _ =>
    have hpair : List.replicate (n + 2) 0#8 = recordBytes 0#8 [] ++ List.replicate n 0#8 := rfl
    rw [hpair, tlvFrom_record m 0#8 (by simp), insertFirst_of_unknown (keyOf_zero hm), ih]

/-- Settles O23: after whole records only `tlvFrom_zeros` is left to decode. -/
theorem zeroPaddingIsHarmless : Obligations.ZeroPaddingIsHarmless := by
  unfold Obligations.ZeroPaddingIsHarmless
  intro m a n hm ha
  rw [tlvDecode_records_append m ha, tlvFrom_zeros hm]

/-- Decoding stops before some last bytes; with more input it goes on from them. -/
theorem tlvFrom_append (m : KeyMap) (p : Bytes) (r : RecordSet) :
    ∃ unread, ∀ q, tlvFrom m (p ++ q) r = tlvFrom m (unread ++ q) (tlvFrom m p r) := by
  induction hn : p.length using Nat.strong_induction_on generalizing p r with
  | _ n ih =>
    subst hn
    match p with
    | [] => exact ⟨[], fun q => rfl⟩
    | [c] => exact ⟨[c], fun q => rfl⟩
    | c :: l :: rest =>
      by_cases hl : l.toNat ≤ rest.length
      · obtain ⟨unread, h⟩ := ih (rest.drop l.toNat).length (by simp; omega) (rest.drop l.toNat)
          (insertFirst m r c (rest.take l.toNat)) rfl
        refine ⟨unread, fun q => ?_⟩
        have hlong : l.toNat ≤ (rest ++ q).length := by simp; omega
        rw [List.cons_append, List.cons_append, tlvFrom_cons, tlvFrom_cons, if_pos hl, if_pos hlong,
          List.drop_append_of_le_length hl, List.take_append_of_le_length hl, h]
      · exact ⟨c :: l :: rest, fun q => by rw [tlvFrom_cons m c l rest, if_neg hl]⟩

/-- Settles O24: the decoding of the longer input goes on from that of the shorter, whose slots stay filled. -/
theorem longerInputKeepsRecords : Obligations.LongerInputKeepsRecords := by
  unfold Obligations.LongerInputKeepsRecords
  intro m p q k v h
  obtain ⟨unread, hmore⟩ := tlvFrom_append m p []
  rw [tlvDecode_eq, hmore]
  exact recGet_tlvFrom_of_some h _

/-! ### The key rows -/

theorem recGet_tlvDecode_record {m : KeyMap} {c : Byte} {k : TlvKey} (hc : keyOf m c = some k) {v : Bytes}
    (hv : v.length ≤ 255) (more : Bytes) : recGet (tlvDecode m (recordBytes c v ++ more)) k = some v := by
  rw [tlvDecode_eq, tlvFrom_record m c hv]
  exact recGet_tlvFrom_of_some (recGet_insertFirst_self hc rfl v) more

/-- Settles O25: each row is TLV.DEC of the stream that begins with its key byte; the first record fills its slot and
no later one empties it. -/
theorem keyRowsDecodeTheirRecord : Obligations.KeyRowsDecodeTheirRecord := by
  unfold Obligations.KeyRowsDecodeTheirRecord
  exact ⟨fun s rest h => ⟨exec_tlvDec_of_ok h _, exec_tlvDec_of_ok h _, exec_tlvDec_of_ok h _,
      exec_tlvDec_of_ok h _, exec_tlvDec_of_ok h _⟩,
    fun m c k v more hc hv => recGet_tlvDecode_record hc hv more⟩

end Sys2Proof.Machine
end

section
/-!
The statements of the family other, fourth part: frames read back in both modes, and the header row.
-/

namespace Sys2Proof.Machine

/-! ### The payload of a name and a record set -/

section Named

variable {m : KeyMap} {name : Bytes} {r : RecordSet} (hm : KeyMap.Valid m) (hname : name.length ≤ 255)
  (hr : RecordSet.Ok r) (hk : RecordSet.Known m r)
include hm hname hr hk

theorem tlvDecode_namedPayload : tlvDecode m (namedPayload m name r) = recSet r .messageName name :=
  tlvDecode_tlvEncode hm (recSet_ok hr _ hname) (recSet_known hk (named_key_known hm).1)

/-- The name's own record takes two bytes or more, so a frame is never too short to decode. -/
theorem two_le_namedPayload_length : 2 ≤ (namedPayload m name r).length := by
  rw [namedPayload, tlvEncode_length hm (recSet_ok hr _ hname) (recSet_known hk (named_key_known hm).1)]
  have hmem : (TlvKey.messageName, name) ∈ recSet r .messageName name := mem_of_recGet (recGet_recSet_self ..)
  calc 2 ≤ 2 + name.length := Nat.le_add_right ..
    _ ≤ _ := List.le_sum_of_mem (List.mem_map.mpr ⟨_, hmem, rfl⟩)

theorem nine_le_frameOf_length : 9 ≤ (frameOf m name r).length := by
  have := two_le_namedPayload_length hm hname hr hk
  rw [frameOf, framePayload_length]
  omega

end Named

/-! ### Hardened mode -/

/-- Hardened mode finds the payload by the length field and the CRC where FRM.ENC put them (42_frame R113, R115). -/
theorem decodeHardened_framePayload (m : KeyMap) {p : Bytes} (hp : p.length ≤ 65533) (t : Bytes)
    (h9 : 9 ≤ (framePayload p ++ t).length) : decodeHardened m (framePayload p ++ t) h9 = .ok (tlvDecode m p) := by
  have hlen : (be16At (framePayload p ++ t) 1 (by omega)).toNat = 2 + p.length :=
    (congrArg BitVec.toNat (be16At_eq_be16 rfl rfl _)).trans (lengthField_toNat hp)
  have hcovered : (framePayload p ++ t).take (3 + (2 + p.length)) = frameHead p := by
    rw [show 3 + (2 + p.length) = p.length + 5 by omega, framePayload_take_head]
  have hcrc : ∀ i < 2, (framePayload p ++ t)[3 + (2 + p.length) + i]? = (be16Bytes (crc16 (frameHead p)))[i]? := by
    intro i hi
    rw [List.getElem?_append_left (by rw [framePayload_length]; omega), ← framePayload_crc_getElem?]
    congr 1
    omega
  have hfield : be16At (framePayload p ++ t) (3 + (2 + p.length)) (by simp; omega) = crc16 (frameHead p) :=
    (be16At_eq_be16 (hcrc 0 (by omega)) (hcrc 1 (by omega)) _).trans (be16_halves _)
  rw [decodeHardened_of_goodLength hlen (by omega) (by simp; omega), hcovered, hfield, if_neg (not_not_intro rfl)]
  rfl

/-- Settles O31: FRM.ENC answers the frame, hardened mode finds its payload again, whatever follows, and TLV.DEC reads
the payload back. -/
theorem hardenedFrameRoundTrip : Obligations.HardenedFrameRoundTrip := by
  unfold Obligations.HardenedFrameRoundTrip
  rintro s name r trailing h hc hmode ⟨hname, hr, hk⟩ hpayload hmax
  have hm := config_keymap_valid hc
  have hsent := exec_frmEnc_of_fits (s := s) h hname (anyTooLong_of_ok (recSet_ok hr .messageName hname))
  rw [if_neg (not_lt_of_ge (show (namedPayload s.cfg.keymap name r).length ≤ 65533 from hpayload))] at hsent
  have h9 : 9 ≤ (frameOf s.cfg.keymap name r ++ trailing).length := by
    have := nine_le_frameOf_length hm hname hr hk
    simp; omega
  have hread : frameDecode s.cfg (frameOf s.cfg.keymap name r ++ trailing) = .ok (recSet r .messageName name) := by
    rw [frameDecode_hardened hmode (by simpa using hmax) h9, ← tlvDecode_namedPayload hm hname hr hk]
    exact decodeHardened_framePayload _ hpayload _ _
  exact ⟨_, _, hsent, rfl, exec_frmDec_of_records (by exact h) hread⟩

/-! ### Legacy mode -/

/-- In legacy mode decoding goes on past the payload with the CRC bytes and what follows (42_frame R114). -/
theorem tlvDecode_framePayload_drop {m : KeyMap} {name : Bytes} {r : RecordSet} (hm : KeyMap.Valid m)
    (hname : name.length ≤ 255) (hr : RecordSet.Ok r) (hk : RecordSet.Known m r) {c : Word16}
    (hc : c = crc16 (frameHead (namedPayload m name r))) (trailing : Bytes) :
    tlvDecode m ((frameOf m name r ++ trailing).drop 5) =
      tlvFrom m (hi8 c :: lo8 c :: trailing) (recSet r .messageName name) := by
  have hshort := payloadRecords_short (m := m) (recSet_ok hr .messageName hname)
  have hread : tlvDecode m (recordsBytes (payloadRecords m (recSet r .messageName name))) =
      recSet r .messageName name := by
    rw [← tlvEncode_eq_records]
    exact tlvDecode_namedPayload hm hname hr hk
  rw [frameOf, List.drop_append_of_le_length (by simp), framePayload_drop_header, ← hc, List.append_assoc,
    namedPayload, tlvEncode_eq_records, tlvDecode_records_append m hshort, hread]
  rfl

/-- Settles O32: after the frame's own records one round is left to look at, with the CRC's high byte as its key and
the low byte as its length. -/
theorem legacyFrameRoundTrip : Obligations.LegacyFrameRoundTrip := by
  unfold Obligations.LegacyFrameRoundTrip
  rintro s name r trailing c h hvalid hmode ⟨hname, hr, hk⟩ hmax hc
  have hm := config_keymap_valid hvalid
  have h9 : 9 ≤ (frameOf s.cfg.keymap name r ++ trailing).length := by
    have := nine_le_frameOf_length hm hname hr hk
    simp; omega
  have hread := frameDecode_legacy hmode (by simpa using hmax) h9
  rw [tlvDecode_framePayload_drop hm hname hr hk hc] at hread
  refine ⟨_, exec_frmDec_of_records h hread, fun hlong => ?_, fun k v hv => recGet_tlvFrom_of_some hv _,
    fun k hfits hkey hnone => ?_⟩
  · rw [tlvFrom_cons, if_neg (Nat.not_le.mpr hlong)]
  · rw [tlvFrom_cons, if_pos hfits]
    exact recGet_tlvFrom_of_some (recGet_insertFirst_self hkey hnone _) _

/-! ### The header bytes -/

/-- Legacy mode reads the length of the buffer and what follows its first five bytes (30_encoding R79). -/
theorem frameDecode_legacy_congr {c : Config} (hc : c.rxCrcCheck = .off) {b b' : Bytes} (hlen : b.length = b'.length)
    (hdrop : b.drop 5 = b'.drop 5) : frameDecode c b = frameDecode c b' := by
  simp only [frameDecode, hlen, hc, decodeLegacy, hdrop]

/-- Settles O33: FRM.DEC and HS.RX see a buffer only through `frameDecode`. -/
theorem legacyIgnoresTheHeader : Obligations.LegacyIgnoresTheHeader := by
  unfold Obligations.LegacyIgnoresTheHeader
  intro s h h' body hmode hh hh'
  have hsame : frameDecode s.cfg (h ++ body) = frameDecode s.cfg (h' ++ body) :=
    frameDecode_legacy_congr hmode (by simp [hh, hh']) (by rw [← hh, List.drop_left, hh, ← hh', List.drop_left])
  simp only [exec, execFrmDec, bufferArrives, execHsRx, hsame, and_self]

/-- Settles O34: the row is FRM.DEC of the buffer by definition, and legacy mode drops the header again. -/
theorem headerRowDecodesItsBuffer : Obligations.HeaderRowDecodesItsBuffer := by
  unfold Obligations.HeaderRowDecodesItsBuffer
  intro s len rest
  refine ⟨rfl, fun h hmode hlong hmax => ?_⟩
  have hread := frameDecode_legacy (buf := frameHeader len ++ rest) hmode (by simp; omega) (by simp; omega)
  exact exec_frmDec_of_records h hread

end Sys2Proof.Machine
end

section
/-!
The statements of the family other, fifth part: what HS.RX and the message rows do of a record set.
-/

namespace Sys2Proof.Machine

/-! ### The fields examined -/

theorem isHandshakeName_iff {name : Option Bytes} :
    isHandshakeName name = true ↔ name = some nameSTA ∨ name = some nameVRP ∨ name = some nameFIN :=
  decide_eq_true_iff

theorem amtField_of_handshake {r : RecordSet} (h : isHandshakeName (recGet r .messageName) = true) (s : State) :
    amtField s r = fieldUint r .amount s.cfg.wAmt :=
  if_pos h

theorem amtField_of_other {r : RecordSet} (h : isHandshakeName (recGet r .messageName) = false) (s : State) :
    amtField s r = .absent :=
  if_neg (by simp [h])

theorem fieldUint_recSet_of_ne {k k' : TlvKey} (h : k ≠ k') (r : RecordSet) (v : Bytes) (w : Nat) :
    fieldUint (recSet r k v) k' w = fieldUint r k' w := by
  rw [fieldUint, recGet_recSet, if_neg h, fieldUint]

/-- The name is not the operation number: replacing it changes nothing HS.RX would seed. -/
@[simp] theorem opnField_recSet_messageName (s : State) (r : RecordSet) (name : Bytes) :
    opnField s (recSet r .messageName name) = opnField s r := by
  simp only [opnField, fieldUint_recSet_of_ne (show TlvKey.messageName ≠ .operationNumber by decide)]

theorem isVal_iff {f : Field} : isVal f = true ↔ ∃ v, f = .val v := by
  cases f <;> simp [isVal]

theorem ignore_of_ne_abort {p : BadFieldPolicy} (h : p ≠ .abort) : p = .ignore := by
  cases p
  · exact absurd rfl h
  · rfl

/-- The status of 43_handshake R123 lines 8 to 11 in terms of the fields as they stand in the set. -/
theorem rxStatus_eq (s : State) (r : RecordSet) (opn : Field) :
    rxStatus (recGet r .messageName) opn (amtField s r) =
      if isHandshakeName (recGet r .messageName) = true ∧ fieldUint r .amount s.cfg.wAmt = .absent then .ignoredNoAmount
      else if (isHandshakeName (recGet r .messageName) = true ∧ fieldUint r .amount s.cfg.wAmt = .bad) ∨ opn = .bad then
        .ignoredBadValue
      else .ok := by
  cases h : isHandshakeName (recGet r .messageName)
  · simp [rxStatus, h]
  · simp only [rxStatus, h, amtField_of_handshake h, true_and]
    by_cases hbad : fieldUint r .amount s.cfg.wAmt = .bad <;> simp [hbad]

/-! ### The abort tests, cause by cause (43_handshake R123 lines 9 to 13) -/

section AbortTests

variable {s : State} {name : Option Bytes} {opn amt : Field}

theorem abortCause_of_bad_opn (hp : s.cfg.badFieldPolicy = .abort) (h : opn = .bad) :
    abortCause s name opn amt = some .opnumUnparseable :=
  if_pos ⟨hp, h⟩

theorem abortCause_of_bad_amt (hp : s.cfg.badFieldPolicy = .abort) (hopn : opn ≠ .bad)
    (hname : isHandshakeName name = true) (h : amt = .bad) :
    abortCause s name opn amt = some .amountUnparseable :=
  (if_neg fun hc => hopn hc.2).trans (if_pos ⟨hp, hname, h⟩)

theorem abortCause_of_absent_amt (hp : s.cfg.badFieldPolicy = .abort) (hopn : opn ≠ .bad)
    (hname : isHandshakeName name = true) (h : amt = .absent) :
    abortCause s name opn amt = some .amountAbsent := by
  subst h
  exact (if_neg fun hc => hopn hc.2).trans ((if_neg (by simp)).trans (if_pos ⟨hp, hname, rfl⟩))

theorem abortCause_of_overflow (hopn : opn = .bad → s.cfg.badFieldPolicy = .ignore) (hname : name = some nameSTA)
    (hstage : s.stage = .idle) (hamt : isVal amt = true) (hmax : seededCounter s opn = 2 ^ s.cfg.wOp - 1) :
    abortCause s name opn amt = some .opCounterOverflow := by
  obtain ⟨v, rfl⟩ := isVal_iff.mp hamt
  refine (if_neg fun hc => ?_).trans ((if_neg (by simp)).trans ((if_neg (by simp)).trans
    (if_pos ⟨hname, hstage, rfl, hmax⟩)))
  simp [hopn hc.2] at hc

/-- When HS.RX aborts at all. -/
theorem abortCause_ne_none_iff : abortCause s name opn amt ≠ none ↔
    (s.cfg.badFieldPolicy = .abort ∧ (opn = .bad ∨ (isHandshakeName name = true ∧ (amt = .bad ∨ amt = .absent)))) ∨
    (name = some nameSTA ∧ s.stage = .idle ∧ isVal amt = true ∧ seededCounter s opn = 2 ^ s.cfg.wOp - 1) := by
  rw [Ne, abortCause_eq_none]
  cases s.cfg.badFieldPolicy with
  | abort => simp only [reduceCtorEq]; tauto
  | ignore => simp

end AbortTests

/-! ### What a classified record set does -/

section Classify

variable {s : State} {r : RecordSet}

theorem classify_of_abort {c : FaultCause}
    (h : abortCause s (recGet r .messageName) (opnField s r) (amtField s r) = some c) : classify s r = s.abort c := by
  simp only [classify, h]

theorem classify_of_transitions (h : abortCause s (recGet r .messageName) (opnField s r) (amtField s r) = none)
    {x : Rx} (hx : rxTransitions (recGet r .messageName) (amtField s r) (rxSeed (opnField s r) s) = x) :
    classify s r = x.st.respond
      { status := rxStatus (recGet r .messageName) (opnField s r) (amtField s r), tx := x.tx, event := x.event } := by
  simp only [classify, h, hx]

/-- A message that matches no event in the present stage only seeds (43_handshake R132). -/
theorem classify_quiet (hstage : s.stage ≠ .finalized)
    (h : abortCause s (recGet r .messageName) (opnField s r) (amtField s r) = none)
    (h1 : ∀ v, ¬ IsStart (recGet r .messageName) (amtField s r) s v)
    (h2 : ¬ IsReserve (recGet r .messageName) (amtField s r) s)
    (h3 : ¬ IsFinalize (recGet r .messageName) (amtField s r) s) :
    classify s r =
      { s with
        opCounter := seededCounter s (opnField s r)
        opSeeded := s.opSeeded || isVal (opnField s r)
        response := some { status := rxStatus (recGet r .messageName) (opnField s r) (amtField s r) } } := by
  have hx := rxTransitions_quiet (s := rxSeed (opnField s r) s) (by simpa using hstage)
    (by simpa [IsStart] using h1) (by simpa [IsReserve] using h2) (by simpa [IsFinalize] using h3)
  rw [classify_of_transitions h hx, rxSeed_eq]
  rfl

/-- Finalized is left by whatever message aborts nothing (43_handshake R129, R132). -/
theorem classify_finalized (hstage : s.stage = .finalized)
    (h : abortCause s (recGet r .messageName) (opnField s r) (amtField s r) = none) :
    classify s r = (rxSeed (opnField s r) s).endSession.respond
      { status := rxStatus (recGet r .messageName) (opnField s r) (amtField s r)
        tx := [msgIDL (rxSeed (opnField s r) s)] } :=
  classify_of_transitions h (rxTransitions_finalized (by simpa using hstage))

/-- A name that is compared with nothing fires no event: the set only seeds (43_handshake R125). -/
theorem classify_other (hstage : s.stage ≠ .finalized)
    (hname : isHandshakeName (recGet r .messageName) = false)
    (hopn : opnField s r = .bad → s.cfg.badFieldPolicy = .ignore) :
    classify s r =
      { s with
        opCounter := seededCounter s (opnField s r)
        opSeeded := s.opSeeded || isVal (opnField s r)
        response := some { status := if opnField s r = .bad then .ignoredBadValue else .ok } } := by
  have hamt := amtField_of_other hname s
  have habort : abortCause s (recGet r .messageName) (opnField s r) (amtField s r) = none :=
    abortCause_eq_none.mpr ⟨hopn, by simp [hname], by simp [hamt, isVal]⟩
  rw [classify_quiet hstage habort (by simp [IsStart, hamt]) (by simp [IsReserve, hamt]) (by simp [IsFinalize, hamt]),
    rxStatus_eq]
  simp [hname]

/-- Whatever it does, a message writes only what 43_handshake R123 to R129 name; without an abort not even the fault. -/
theorem rxTransitions_frame (name : Option Bytes) (amt : Field) (s : State) :
    (rxTransitions name amt s).st =
      { s with
        stage := (rxTransitions name amt s).st.stage
        pendingAmount := (rxTransitions name amt s).st.pendingAmount
        opCounter := (rxTransitions name amt s).st.opCounter
        opSeeded := (rxTransitions name amt s).st.opSeeded } := by
  rcases rxTransitions_cases name amt s with ⟨v, -, e⟩ | ⟨-, e⟩ | ⟨-, e⟩ | ⟨-, e⟩ | ⟨-, e⟩ <;> rw [e] <;> rfl

theorem rxTransitions_fault (name : Option Bytes) (amt : Field) (s : State) :
    (rxTransitions name amt s).st.fault = s.fault := by
  rw [rxTransitions_frame]

/-- When a classified set sets the fault, in terms of the fields as they stand in the set: under a handshake name the
amount examined is the set's own. -/
theorem classify_fault_iff (hf : s.fault = false) :
    (classify s r).fault = true ↔
      (s.cfg.badFieldPolicy = .abort ∧ (opnField s r = .bad ∨ (isHandshakeName (recGet r .messageName) = true ∧
        (fieldUint r .amount s.cfg.wAmt = .bad ∨ fieldUint r .amount s.cfg.wAmt = .absent)))) ∨
      (recGet r .messageName = some nameSTA ∧ s.stage = .idle ∧ isVal (fieldUint r .amount s.cfg.wAmt) = true ∧
        seededCounter s (opnField s r) = 2 ^ s.cfg.wOp - 1) := by
  have hcause : (classify s r).fault = true ↔
      abortCause s (recGet r .messageName) (opnField s r) (amtField s r) ≠ none := by
    rcases classify_cases s r with ⟨c, h, e⟩ | ⟨h, x, rfl, e⟩
    · simp [e, h]
    · simp [e, h, rxTransitions_fault, hf]
  rw [hcause, abortCause_ne_none_iff]
  refine or_congr (and_congr_right' (or_congr_right (and_congr_right fun hn => ?_))) (and_congr_right fun hn => ?_)
  · rw [amtField_of_handshake hn]
  · rw [amtField_of_handshake (isHandshakeName_iff.mpr (.inl hn))]

end Classify

/-! ### HS.RX of a message that fires no event -/

/-- Settles O42: nothing aborts and nothing matches, so the set only seeds by `classify_quiet`, or leaves Finalized by
`classify_finalized`. -/
theorem unmatchedMessageMakesNoTransition : Obligations.UnmatchedMessageMakesNoTransition := by
  unfold Obligations.UnmatchedMessageMakesNoTransition
  rintro s r buf _ opn amt hs c st h hb hd rfl hhs hopn rfl hpolicy hstart hreserve hfinalize hc hst
  obtain rfl : opn = opnField s r := hopn
  obtain rfl : c = seededCounter s (opnField s r) := hc.trans (by cases opnField s r <;> rfl)
  obtain rfl : hs = isHandshakeName (recGet r .messageName) := hhs
  rw [← rxStatus_eq] at hst
  have h1 : ∀ v, ¬ IsStart (recGet r .messageName) (amtField s r) s v := fun v ⟨hn, hg, hv⟩ =>
    hstart ⟨hn, hg, v, (amtField_eq_val hv).2⟩
  have h2 : ¬ IsReserve (recGet r .messageName) (amtField s r) s := fun ⟨hn, hg, hv⟩ =>
    hreserve ⟨hn, hg, (amtField_eq_val hv).2⟩
  have h3 : ¬ IsFinalize (recGet r .messageName) (amtField s r) s := fun ⟨hn, hg, hv⟩ =>
    hfinalize ⟨hn, hg, (amtField_eq_val hv).2⟩
  have habort : abortCause s (recGet r .messageName) (opnField s r) (amtField s r) = none := by
    refine abortCause_eq_none.mpr ⟨fun hbad => ?_, fun hn hbad => ?_, fun hn hg hv => ?_⟩
    · exact ignore_of_ne_abort fun hp => (hpolicy hp).1 hbad
    · refine ignore_of_ne_abort fun hp => ?_
      obtain ⟨v, hv⟩ := (hpolicy hp).2 hn
      rw [amtField_of_handshake hn, hv] at hbad
      simp at hbad
    · obtain ⟨v, hv⟩ := isVal_iff.mp hv
      exact absurd ⟨hn, hg, hv⟩ (h1 v)
  rw [exec_hsRx_of_records h hb hd]
  refine ⟨fun hstage => by rw [classify_quiet hstage habort h1 h2 h3, hst], fun hstage => ?_⟩
  rw [classify_finalized hstage habort, rxSeed_eq, hst]
  refine ⟨msgIDL _, fun hfits => ?_, rfl⟩
  exact msgIDL_of_fits hfits

/-! ### The message rows -/

/-- A row past the gate classifies its record set under its own name (log entry 9). -/
theorem messageArrives_of_fits {s : State} (h : s.fault = false) (hb : s.booted = true) {r : RecordSet}
    (hr : ∀ e ∈ r, e.2.length ≤ 255) (name : Bytes) :
    messageArrives name r s = classify s (recSet r .messageName name) := by
  have hfits : anyTooLong r = false := by
    rw [Bool.eq_false_iff, Ne, anyTooLong_eq_true]
    rintro ⟨e, he, hlong⟩
    exact absurd (hr e he) (Nat.not_le.mpr hlong)
  exact (whenBooted_of_booted h hb _).trans (if_neg (by simp [hfits]))

theorem messageArrives_of_tooLong {s : State} (h : s.fault = false) (hb : s.booted = true) {r : RecordSet}
    (hr : ∃ e ∈ r, 255 < e.2.length) (name : Bytes) : messageArrives name r s = s.raise .valueTooLong :=
  (whenBooted_of_booted h hb _).trans (if_pos (anyTooLong_eq_true.mpr hr))

section Other

variable (s : State) {r : RecordSet} {name : Bytes} (h : s.fault = false) (hb : s.booted = true)
  (hr : ∀ e ∈ r, e.2.length ≤ 255) (hname : isHandshakeName (some name) = false)
include h hb hr

theorem messageArrives_of_bad_opn (hp : s.cfg.badFieldPolicy = .abort) (hbad : opnField s r = .bad) :
    messageArrives name r s = s.abort .opnumUnparseable := by
  rw [messageArrives_of_fits h hb hr]
  exact classify_of_abort (abortCause_of_bad_opn hp ((opnField_recSet_messageName ..).trans hbad))

include hname

/-- A name that is compared with nothing only seeds, whichever it is. -/
theorem messageArrives_of_other (hstage : s.stage ≠ .finalized)
    (hok : opnField s r = .bad → s.cfg.badFieldPolicy = .ignore) :
    messageArrives name r s =
      { s with
        opCounter := seededCounter s (opnField s r)
        opSeeded := s.opSeeded || isVal (opnField s r)
        response := some { status := if opnField s r = .bad then .ignoredBadValue else .ok } } := by
  have hother : isHandshakeName (recGet (recSet r .messageName name) .messageName) = false := by
    rw [recGet_recSet_self, hname]
  rw [messageArrives_of_fits h hb hr, classify_other hstage hother (by simpa using hok), opnField_recSet_messageName]

end Other

/-- Settles O43: "IDL" is no handshake name. -/
theorem idleMessageOnlySeeds : Obligations.IdleMessageOnlySeeds := by
  unfold Obligations.IdleMessageOnlySeeds
  intro s r opn h hb hstage hr hopn hok
  obtain rfl : opn = opnField s r := hopn
  refine congrArg _ ((messageArrives_of_other s h hb hr.2 (by decide) hstage hok).trans ?_)
  cases opnField s r <;> rfl

/-- Settles O44: the three events of a classified set, as for HS.RX (O39 to O41), with the row's name in place. -/
theorem messageRowsCompleteTheirEvents : Obligations.MessageRowsCompleteTheirEvents := by
  unfold Obligations.MessageRowsCompleteTheirEvents
  rintro s r v c opn h hb hr hamt hopn hbad hc _ rfl
  obtain rfl : opn = opnField s r := hopn
  obtain rfl : c = seededCounter s (opnField s r) := hc.trans (by cases opnField s r <;> rfl)
  have hv : v < 10 ^ 255 := fieldUint_lt_of_fits hr.2 hamt
  have hamt' : ∀ name, fieldUint (recSet r .messageName name) .amount s.cfg.wAmt = .val v := fun name =>
    (fieldUint_recSet_of_ne (by decide) ..).trans hamt
  have hbad' : ∀ name, opnField s (recSet r .messageName name) = .bad → s.cfg.badFieldPolicy = .ignore := by
    simpa using hbad
  have hrow : ∀ name, Host.Outcome.next (messageArrives name r s) =
      (.next (classify s (recSet r .messageName name)) : Host.Outcome State Fault Refusal) := fun name =>
    congrArg _ (messageArrives_of_fits h hb hr.2 name)
  refine ⟨fun hstage hroom => ?_, fun hstage hpending => ?_, fun hstage hpending => ?_⟩
  · have hdone := classify_start (hamt' nameSTA) (hbad' _) (recGet_recSet_self ..) hstage (by simpa using hroom)
      (rxSeed_start ..)
    rw [opnField_recSet_messageName] at hdone
    refine ⟨msgVRP _, fun hfits => ?_, (hrow nameSTA).trans (congrArg _ hdone)⟩
    exact msgVRP_of_fits hfits hv
  · have hdone := classify_reserve (hamt' nameVRP) (hbad' _) (recGet_recSet_self ..) hstage hpending
      (rxSeed_setStage ..)
    rw [opnField_recSet_messageName] at hdone
    refine ⟨msgFIN _, fun hfits => ?_, (hrow nameVRP).trans (congrArg _ hdone)⟩
    subst hpending
    exact msgFIN_of_fits hfits hv
  · have hdone := classify_finalize (hamt' nameFIN) (hbad' _) (recGet_recSet_self ..) hstage hpending
      (rxSeed_setStage ..)
    rw [opnField_recSet_messageName] at hdone
    refine ⟨msgIDL _, fun hfits => ?_, (hrow nameFIN).trans (congrArg _ hdone)⟩
    exact msgIDL_of_fits hfits

theorem frameDecode_ok {c : Config} {buf : Bytes} {r : RecordSet} (hd : frameDecode c buf = .ok r) :
    RecordSet.Ok r := by
  rcases frameDecode_cases c buf with ⟨st, -, he⟩ | ⟨p, he⟩
  · cases hd.symm.trans he
  · cases hd.symm.trans he
    exact tlvDecode_ok _ p

/-- A decoded set fits and already holds its name, so HS.RX and the row of that name classify the same set. -/
theorem exec_hsRx_eq_messageArrives {s : State} {buf : Bytes} {r : RecordSet} (hd : frameDecode s.cfg buf = .ok r)
    {name : Bytes} (hname : recGet r .messageName = some name) :
    exec (.hsRx buf) s = .next (messageArrives name r s) := by
  have hr := frameDecode_ok hd
  have hrow : messageArrives name r s = whenBooted s (classify s r) := by
    rw [messageArrives, if_neg (by simp [anyTooLong_of_ok hr]), recSet_eq_self hr hname]
  rw [hrow, exec, execHsRx, hd, receiveDecoded]

/-- Settles O45: each row is `messageArrives` of its name. -/
theorem messageRowsAreHandshakeReceive : Obligations.MessageRowsAreHandshakeReceive := by
  unfold Obligations.MessageRowsAreHandshakeReceive
  intro s buf r hd
  exact ⟨exec_hsRx_eq_messageArrives hd, exec_hsRx_eq_messageArrives hd, exec_hsRx_eq_messageArrives hd,
    exec_hsRx_eq_messageArrives hd⟩

/-! ### Aborts and ignored fields -/

/-- Settles O46: the abort tests cause by cause, and `classify_fault_iff`; under a handshake name the amount examined is
the set's own. -/
theorem abortEntry : Obligations.AbortEntry := by
  unfold Obligations.AbortEntry
  rintro s r buf _ opn _ hs h hb hd rfl hopn rfl hhs a overflow ha hoverflow
  obtain rfl : opn = opnField s r := hopn
  have hoverflow : overflow ↔ recGet r .messageName = some nameSTA ∧ s.stage = .idle ∧
      isVal (fieldUint r .amount s.cfg.wAmt) = true ∧ seededCounter s (opnField s r) = 2 ^ s.cfg.wOp - 1 := by
    rw [hoverflow, isVal_iff]
    cases opnField s r <;> rfl
  rw [← isHandshakeName_iff] at hhs
  have habort : ∀ {c}, abortCause s (recGet r .messageName) (opnField s r) (amtField s r) = some c →
      exec (.hsRx buf) s = .next (a c) := fun hc => by
    rw [exec_hsRx_of_records h hb hd, classify_of_abort hc, ha, State.abort]
  have hfield : hs → amtField s r = fieldUint r .amount s.cfg.wAmt := fun hn =>
    amtField_of_handshake (hhs.mp hn) s
  have hsta : recGet r .messageName = some nameSTA → hs := fun hn => hhs.mpr (isHandshakeName_iff.mpr (.inl hn))
  refine ⟨fun hp hbad => habort (abortCause_of_bad_opn hp hbad),
    fun hp hok hn hbad => habort (abortCause_of_bad_amt hp hok (hhs.mp hn) ((hfield hn).trans hbad)),
    fun hp hok hn hnone => habort (abortCause_of_absent_amt hp hok (hhs.mp hn) ((hfield hn).trans hnone)),
    fun hok ho => ?_, _, exec_hsRx_of_records h hb hd, ?_⟩
  · obtain ⟨hn, hg, hv, hmax⟩ := hoverflow.mp ho
    exact habort (abortCause_of_overflow hok hn hg ((congrArg isVal (hfield (hsta hn))).trans hv) hmax)
  · rw [classify_fault_iff h, hoverflow, hhs]

/-- Settles O47: under policy `ignore` the only cause left is the overflow; without it the status is `rxStatus_eq`. -/
theorem ignorePolicyReportsAndContinues : Obligations.IgnorePolicyReportsAndContinues := by
  unfold Obligations.IgnorePolicyReportsAndContinues
  rintro s r buf hs opn _ h hb hp hd hhs hopn rfl
  obtain rfl : opn = opnField s r := hopn
  obtain rfl : hs = isHandshakeName (recGet r .messageName) := hhs
  have hfault : (classify s r).fault = true ↔ recGet r .messageName = some nameSTA ∧ s.stage = .idle ∧
      isVal (fieldUint r .amount s.cfg.wAmt) = true ∧ seededCounter s (opnField s r) = 2 ^ s.cfg.wOp - 1 := by
    simp [classify_fault_iff h, hp]
  obtain ⟨o, ho, habort, hstatus⟩ : ∃ o, (classify s r).response = some o ∧
      ((classify s r).fault = true → classify s r = s.abort .opCounterOverflow) ∧
      ((classify s r).fault = false →
        o.status = rxStatus (recGet r .messageName) (opnField s r) (amtField s r)) := by
    rcases classify_cases s r with ⟨c, hc, e⟩ | ⟨-, x, rfl, e⟩ <;> rw [e]
    · obtain ⟨rfl, -⟩ := abortCause_of_ignore hp hc
      exact ⟨_, rfl, fun _ => rfl, by simp⟩
    · exact ⟨_, rfl, by simp [rxTransitions_fault, h], fun _ => rfl⟩
  rw [rxStatus_eq] at hstatus
  refine ⟨_, o, exec_hsRx_of_records h hb hd, ho, hfault.trans ?_, habort, hstatus⟩
  rw [isVal_iff]
  cases opnField s r <;> rfl

/-- Settles O48: FRM.DEC and HS.RX take one answer of the decoder; a status other than OK is a rejection. -/
theorem rejectedBufferIsNoMessage : Obligations.RejectedBufferIsNoMessage := by
  unfold Obligations.RejectedBufferIsNoMessage
  intro s buf st h hb hdec hst
  rw [exec_frmDec_of_ok h] at hdec
  have hresp := congrArg State.response (Host.Outcome.next.inj hdec)
  cases hd : frameDecode s.cfg buf with
  | error st' =>
    simp only [hd, returnDecoded, State.raise_response, Option.some.injEq, Response.mk.injEq] at hresp
    rw [exec_hsRx_of_error h hb hd, hresp.1, State.raise, State.respond]
  | ok r =>
    simp only [hd, returnDecoded, State.respond_response, Option.some.injEq, Response.mk.injEq] at hresp
    exact absurd hresp.1.symm hst

/-! ### Wire words that are no row -/

theorem nameBytes_injective {n n' : BitVec 24} (h : nameBytes n = nameBytes n') : n = n' := by
  simp only [nameBytes, List.cons.injEq, and_true, BitVec.toNat_eq, BitVec.extractLsb'_toNat,
    Nat.shiftRight_eq_div_pow] at h
  have := n.isLt
  have := n'.isLt
  apply BitVec.eq_of_toNat_eq
  omega

theorem decodeKey_of_notMem {key : BitVec 8} (h : key ∉ [0x01#8, 0x03#8, 0x04#8, 0x05#8, 0x0A#8]) (p : Ports) :
    decodeKey key p = .error (.otherKey key) := by
  simp only [List.mem_cons, List.not_mem_nil, or_false, not_or] at h
  simp only [decodeKey, h, if_false]

theorem decodeName_of_notMem {name : BitVec 24} (h : name ∉ [0x535441#24, 0x565250#24, 0x46494E#24, 0x49444C#24])
    (p : Ports) : decodeName name p = .error (.unmatchedName name) := by
  simp only [List.mem_cons, List.not_mem_nil, or_false, not_or] at h
  simp only [decodeName, h, if_false]

theorem decodeHeader_of_unmasked {header : BitVec 40} (h : header &&& 0xFF0000FFFF#40 ≠ 0x1F000096FB#40) (p : Ports) :
    decodeHeader header p = .error (.otherHeader header) :=
  if_neg h

/-- A name word that is no row is no handshake name either (30_encoding R74, R78). -/
theorem isHandshakeName_nameBytes {name : BitVec 24}
    (h : name ∉ [0x535441#24, 0x565250#24, 0x46494E#24, 0x49444C#24]) :
    isHandshakeName (some (nameBytes name)) = false := by
  simp only [List.mem_cons, List.not_mem_nil, or_false, not_or] at h
  obtain ⟨hsta, hvrp, hfin, -⟩ := h
  refine Bool.eq_false_iff.mpr fun hn => ?_
  rcases isHandshakeName_iff.mp hn with he | he | he
  · exact hsta (nameBytes_injective ((Option.some.inj he).trans (by decide)))
  · exact hvrp (nameBytes_injective ((Option.some.inj he).trans (by decide)))
  · exact hfin (nameBytes_injective ((Option.some.inj he).trans (by decide)))

/-- Settles O5: a key byte and a header reach the codecs by definition; a name is a message that is compared
with nothing, past the gate. -/
theorem unassignedWireWordsAreRead : Obligations.UnassignedWireWordsAreRead := by
  unfold Obligations.UnassignedWireWordsAreRead
  rintro s _ p rest opn rfl hopn
  obtain rfl : opn = opnField s p.records := hopn
  refine ⟨fun key hkey hq => ?_, fun header hheader hq => ?_, fun name hname hstage hq => ?_⟩
  · rw [step_of_pending hq]
    exact perform_of_error (q := ⟨.tlvKey8 key, p⟩) (decodeKey_of_notMem hkey p) _
  · rw [step_of_pending hq]
    exact perform_of_error (q := ⟨.frame40 header, p⟩) (decodeHeader_of_unmasked hheader p) _
  · have hstep : step s = .next (messageArrives (nameBytes name) p.records { s with pending := rest }) :=
      (step_of_pending hq).trans (perform_of_error (q := ⟨.msgName24 name, p⟩) (decodeName_of_notMem hname p) _)
    rw [hstep]
    have hother := isHandshakeName_nameBytes hname
    refine ⟨fun h => congrArg _ (whenBooted_of_fault (s := { s with pending := rest }) h _),
      fun h hb => congrArg _ (whenBooted_of_unbooted (s := { s with pending := rest }) h hb _),
      fun h hb hlong => congrArg _ (messageArrives_of_tooLong (s := { s with pending := rest }) h hb hlong _),
      fun h hb hfits => ⟨fun hp hbad => congrArg _ (messageArrives_of_bad_opn _ h hb hfits hp hbad), fun hok => ?_⟩⟩
    refine congrArg _ ((messageArrives_of_other { s with pending := rest } h hb hfits hother hstage hok).trans ?_)
    rw [show opnField { s with pending := rest } p.records = opnField s p.records from rfl]
    cases opnField s p.records <;> rfl

end Sys2Proof.Machine
end

section
/-!
The statements of the family other, sixth part: what every instruction leaves unchanged, the sticky fault, and the
streamed CRC.
-/

namespace Sys2Proof.Machine

/-! ### Frames -/

/-- A classified record set changes what 43_handshake R123 to R129 and the abort write, and nothing else. -/
theorem classify_frame (s : State) (r : RecordSet) :
    classify s r =
      { s with
        stage := (classify s r).stage
        pendingAmount := (classify s r).pendingAmount
        opCounter := (classify s r).opCounter
        opSeeded := (classify s r).opSeeded
        fault := (classify s r).fault
        faultCause := (classify s r).faultCause
        response := (classify s r).response } := by
  rcases classify_cases s r with ⟨c, -, e⟩ | ⟨-, x, rfl, e⟩ <;> rw [e]
  · rfl
  · rw [rxTransitions_frame, rxSeed_eq]
    rfl

/-- No instruction touches the configuration or what the host has presented (log entries 1 and 2). -/
theorem exec_cfg_pending {i : Instr} {s t : State} (h : exec i s = .next t) :
    t.cfg = s.cfg ∧ t.pending = s.pending := by
  cases exec_cases h with
  | reset _ ht => subst ht; exact ⟨rfl, rfl⟩
  | quiet _ hq => obtain ⟨o, rfl, -⟩ := hq; exact ⟨rfl, rfl⟩
  | checksum _ _ _ _ ht => subst ht; exact ⟨rfl, rfl⟩
  | boot _ _ _ _ ht => subst ht; exact ⟨rfl, rfl⟩
  | tick _ _ _ _ ht => subst ht; exact ⟨rfl, rfl⟩
  | message _ ht =>
    obtain ⟨-, -, r, -, rfl⟩ := ht
    rw [classify_frame]
    exact ⟨rfl, rfl⟩

/-- Settles O35: none of these is RESET, writes `crc`, sends or receives, so of `exec_cases` a mere response is left. -/
theorem codecsWriteNoRegister : Obligations.CodecsWriteNoRegister := by
  unfold Obligations.CodecsWriteNoRegister
  intro s t p name r len i hi h
  cases exec_cases h with
  | quiet _ hq => obtain ⟨o, rfl, -⟩ := hq; rfl
  | reset hr => subst hr; simp at hi
  | checksum _ _ _ _ _ hc => rcases hc with ⟨rfl, -⟩ | ⟨b, rfl, -⟩ | ⟨bs, rfl, -⟩ <;> simp at hi
  | boot _ hb => subst hb; simp at hi
  | tick _ ht => subst ht; simp at hi
  | message hm => rcases hm with ⟨buf, rfl⟩ | ⟨r', rfl | rfl | rfl | rfl⟩ <;> simp at hi

/-- Settles O49: the cases of `exec_cases` an HS operation or a message row can be in, each with its writes. -/
theorem handshakeFrame : Obligations.HandshakeFrame := by
  unfold Obligations.HandshakeFrame
  intro s t i h
  cases exec_cases h with
  | reset hi => simp [hi]
  | quiet _ hq => obtain ⟨o, rfl, -⟩ := hq; exact ⟨fun _ => rfl, fun _ => rfl, fun _ => rfl⟩
  | checksum _ _ _ _ _ hi => rcases hi with ⟨rfl, -⟩ | ⟨b, rfl, -⟩ | ⟨bs, rfl, -⟩ <;> simp
  | boot now hi _ _ ht => subst hi ht; exact ⟨fun _ => rfl, by simp, by simp⟩
  | tick now hi _ _ ht => subst hi ht; exact ⟨by simp, fun _ => rfl, by simp⟩
  | message hi ht =>
    obtain ⟨-, -, r, -, rfl⟩ := ht
    refine ⟨?_, ?_, fun _ => classify_frame s r⟩ <;> rintro ⟨now, rfl⟩ <;> simp [ReceivesMessage] at hi

/-- Settles O16: of the cases of `exec_cases` only RESET and `checksum` write `crc`, and `checksum` writes nothing
else. -/
theorem crcRegisterFrame : Obligations.CrcRegisterFrame := by
  unfold Obligations.CrcRegisterFrame
  intro i s t h
  cases exec_cases h with
  | reset hi => simp [hi, restartsCrc]
  | quiet _ hq => obtain ⟨o, rfl, -⟩ := hq; exact ⟨fun _ _ => rfl, fun _ => rfl⟩
  | checksum o c _ _ ht hi =>
    subst ht
    refine ⟨fun hno hnu => ?_, fun _ => rfl⟩
    rcases hi with ⟨rfl, -⟩ | ⟨b, rfl, -⟩ | ⟨bs, rfl, -⟩
    · simp [restartsCrc] at hno
    · exact absurd rfl (hnu b)
    · simp [restartsCrc] at hno
  | boot now hi _ _ ht => subst hi ht; exact ⟨fun _ _ => rfl, by simp⟩
  | tick now hi _ _ ht => subst hi ht; exact ⟨fun _ _ => rfl, by simp⟩
  | message hi ht =>
    obtain ⟨-, -, r, -, rfl⟩ := ht
    refine ⟨fun _ _ => by rw [classify_frame], ?_⟩
    rcases hi with ⟨buf, rfl⟩ | ⟨r', rfl | rfl | rfl | rfl⟩ <;> simp

/-! ### The fault -/

/-- Settles O52: every gate tests the fault first. -/
theorem faultedBlockRefuses : Obligations.FaultedBlockRefuses := by
  unfold Obligations.FaultedBlockRefuses
  intro i s h hreset hstatus
  cases i
  case reset => exact absurd rfl hreset
  case hsStatus => exact absurd rfl hstatus
  all_goals exact congrArg _ (unlessFaulted_of_fault h _)

/-- The fault and its cause change by RESET or, in an unfaulted block, by a received message (60_exceptions R162). -/
theorem exec_fault_cases {i : Instr} {s t : State} (h : exec i s = .next t) :
    i = .reset ∨ (t.fault = s.fault ∧ t.faultCause = s.faultCause) ∨ (s.fault = false ∧ ReceivesMessage i) := by
  cases exec_cases h with
  | reset hi => exact .inl hi
  | quiet _ hq => obtain ⟨o, rfl, -⟩ := hq; exact .inr (.inl ⟨rfl, rfl⟩)
  | checksum _ _ _ _ ht => subst ht; exact .inr (.inl ⟨rfl, rfl⟩)
  | boot _ _ _ _ ht => subst ht; exact .inr (.inl ⟨rfl, rfl⟩)
  | tick _ _ _ _ ht => subst ht; exact .inr (.inl ⟨rfl, rfl⟩)
  | message hi ht => exact .inr (.inr ⟨ht.1, hi⟩)

/-- Settles O53: the two sides of `exec_fault_cases` that are not RESET. -/
theorem faultIsSticky : Obligations.FaultIsSticky := by
  unfold Obligations.FaultIsSticky
  intro i s t h hreset
  rcases exec_fault_cases h with hi | ⟨hf, hc⟩ | ⟨hf, hm⟩
  · exact absurd hi hreset
  · exact ⟨fun hs => ⟨hf.trans hs, hc⟩, fun hs ht => by simp [hf, hs] at ht⟩
  · exact ⟨fun hs => by simp [hf] at hs, fun _ _ => hm⟩

/-! ### The streamed CRC -/

theorem performAll_cons_eq_next {i : Instr} {is : List Instr} {s t : State} (h : performAll (i :: is) s = .next t) :
    ∃ u, exec i s = .next u ∧ performAll is u = .next t := by
  rw [performAll] at h
  cases hi : exec i s with
  | next u => exact ⟨u, rfl, by simpa only [hi] using h⟩
  | fault r => simp [hi] at h
  | refused r => simp [hi] at h

theorem updateBytes_cons_of_ne {i : Instr} (hi : ∀ b, i ≠ .crcUpdate b) (is : List Instr) :
    updateBytes (i :: is) = updateBytes is := by
  cases i
  case crcUpdate b => exact absurd rfl (hi b)
  all_goals rfl

/-- A run that ends unfaulted was never faulted, and each of its CRC.UPDATEs has stepped the register. -/
theorem crc_of_performAll {is : List Instr} {s t : State} (h : performAll is s = .next t)
    (his : ∀ i ∈ is, restartsCrc i = false) (ht : t.fault = false) :
    s.fault = false ∧ t.crc = (updateBytes is).foldl crcStep s.crc := by
  induction is generalizing s with
  | nil => cases h; exact ⟨ht, rfl⟩
  | cons i is ih =>
    obtain ⟨u, hu, hrest⟩ := performAll_cons_eq_next h
    obtain ⟨huf, hcrc⟩ := ih hrest fun j hj => his j (List.mem_cons_of_mem _ hj)
    have hi := his i List.mem_cons_self
    have hreset : i ≠ .reset := by rintro rfl; simp [restartsCrc] at hi
    have hsf : s.fault = false := by
      refine Bool.eq_false_iff.mpr fun hs => ?_
      have := ((faultIsSticky i s u hu hreset).1 hs).1
      simp [huf] at this
    refine ⟨hsf, ?_⟩
    by_cases hupd : ∃ b, i = .crcUpdate b
    · obtain ⟨b, rfl⟩ := hupd
      cases hu.symm.trans (exec_crcUpdate_of_ok hsf b)
      exact hcrc
    · have hne : ∀ b, i ≠ .crcUpdate b := fun b hb => hupd ⟨b, hb⟩
      rw [updateBytes_cons_of_ne hne, hcrc, (crcRegisterFrame i s u hu).1 hi hne]

/-- Settles O14: CRC.INIT loads the register that `crc16` folds from, and the rest is `crc_of_performAll`. -/
theorem crcStreamSurvivesInterleaving : Obligations.CrcStreamSurvivesInterleaving := by
  unfold Obligations.CrcStreamSurvivesInterleaving
  intro s t is h his hrun ht
  rw [performAll_cons_of_next (exec_crcInit_of_ok h)] at hrun
  exact (crc_of_performAll hrun his ht).2

/-! ### The cycle of the host -/

/-- Settles O60: HS.TICK leaves the second request presented. -/
theorem cycleIsTickThenReceive : Obligations.CycleIsTickThenReceive := by
  unfold Obligations.CycleIsTickThenReceive
  intro s t now buf hp htick
  refine ⟨?_, ?_⟩
  · rw [step_of_pending hp, ← htick]
    exact perform_of_ok rfl _
  · rw [step_of_pending (exec_cfg_pending htick).2]
    exact perform_of_ok rfl _

end Sys2Proof.Machine
end

section
/-!
The statements of the family other, seventh part: the invariant of a run, the operation counter and the stage.
-/

namespace Sys2Proof.Machine

/-! ### The invariant, write by write (10_state R37) -/

/-- Settles O55: every register is at its reset value, and zero fits every width. -/
theorem resetMeetsTheInvariant : Obligations.ResetMeetsTheInvariant := by
  unfold Obligations.ResetMeetsTheInvariant
  have hreset : ∀ c : Config, c.Valid → (State.resetWith c).Inv := fun c hc => ⟨hc, by simp⟩
  exact ⟨hreset _ (by decide), hreset⟩

theorem inv_resetRegisters {s : State} (h : s.Inv) : s.resetRegisters.Inv :=
  ⟨h.1, by simp⟩

/-- The response stands in no clause of the invariant, and neither does `crc`. -/
theorem inv_respond {s : State} (h : s.Inv) (o : Response) : (s.respond o).Inv := h

theorem inv_setCrc {s : State} (h : s.Inv) (c : Word16) : (s.setCrc c).Inv := h

theorem inv_of_quiet {s t : State} (h : s.Inv) (hq : Quiet s t) : t.Inv := by
  obtain ⟨o, rfl, -⟩ := hq
  exact inv_respond h o

theorem inv_abort {s : State} (h : s.Inv) {c : FaultCause} (hc : c ≠ .none) : (s.abort c).Inv := by
  obtain ⟨hcfg, hidle, hfin, hseed, -, hboot, ha, ho, hl⟩ := h
  exact ⟨hcfg, hidle, hfin, hseed, by simpa using hc, hboot, ha, ho, hl⟩

theorem timePort_lt (s : State) (now : Nat) : s.timePort now < 2 ^ s.cfg.wTime :=
  Nat.mod_lt _ (Nat.two_pow_pos _)

theorem inv_boot {s : State} (h : s.Inv) (now : Nat) : (s.boot (s.timePort now)).Inv := by
  obtain ⟨hcfg, hidle, hfin, hseed, hfault, -, ha, ho, -⟩ := h
  exact ⟨hcfg, hidle, hfin, hseed, hfault, by simp, ha, ho, timePort_lt s now⟩

/-- The session's reset overwrites the stage. -/
theorem endSession_setStage (s : State) (g : Stage) : (s.setStage g).endSession = s.endSession := rfl

section Booted

variable {s : State} (h : s.Inv) (hb : s.booted = true)
include h hb

theorem inv_setLastIdl (now : Nat) : (s.setLastIdl (s.timePort now)).Inv := by
  obtain ⟨hcfg, hidle, hfin, hseed, hfault, -, ha, ho, -⟩ := h
  exact ⟨hcfg, hidle, hfin, hseed, hfault, by simp [hb], ha, ho, timePort_lt s now⟩

theorem inv_seed {q : Nat} (hq : q < 2 ^ s.cfg.wOp) : (s.seed q).Inv := by
  obtain ⟨hcfg, hidle, hfin, -, hfault, -, ha, -, hl⟩ := h
  exact ⟨hcfg, hidle, hfin, by simp, hfault, by simp [hb], ha, hq, hl⟩

theorem inv_start {v : Nat} (hv : v < 2 ^ s.cfg.wAmt) (hroom : s.opCounter + 1 < 2 ^ s.cfg.wOp) : (s.start v).Inv := by
  obtain ⟨hcfg, -, -, -, hfault, -, -, -, hl⟩ := h
  exact ⟨hcfg, by simp, by simp, by simp, hfault, by simp [hb], hv, hroom, hl⟩

theorem inv_setStage {g : Stage} (hidle : g ≠ .idle) (hfin : g ≠ .finalized) : (s.setStage g).Inv := by
  obtain ⟨hcfg, -, -, hseed, hfault, -, ha, ho, hl⟩ := h
  exact ⟨hcfg, by simp [hidle], hfin, hseed, hfault, by simp [hb], ha, ho, hl⟩

theorem inv_endSession : s.endSession.Inv := by
  obtain ⟨hcfg, -, -, hseed, hfault, -, -, ho, hl⟩ := h
  exact ⟨hcfg, fun _ => rfl, by simp, hseed, hfault, by simp [hb], Nat.two_pow_pos _, ho, hl⟩

theorem inv_rxSeed (r : RecordSet) : (rxSeed (opnField s r) s).Inv := by
  cases hopn : opnField s r with
  | val q =>
    have hq : fieldUint r .operationNumber s.cfg.wOp = .val q := by
      unfold opnField at hopn
      split_ifs at hopn
      exact hopn
    exact inv_seed h hb (fieldUint_lt hq)
  | bad => exact h
  | absent => exact h

theorem inv_rxTransitions {name : Option Bytes} {amt : Field} (hamt : ∀ v, amt = .val v → v < 2 ^ s.cfg.wAmt)
    (hroom : name = some nameSTA → s.stage = .idle → isVal amt = true → s.opCounter ≠ 2 ^ s.cfg.wOp - 1) :
    (rxTransitions name amt s).st.Inv := by
  rcases rxTransitions_cases name amt s with ⟨v, ⟨hn, hg, hv⟩, e⟩ | ⟨-, e⟩ | ⟨-, e⟩ | ⟨-, e⟩ | ⟨-, e⟩ <;> rw [e]
  · have hlt : s.opCounter < 2 ^ s.cfg.wOp := by
      obtain ⟨-, -, -, -, -, -, -, ho, -⟩ := h
      exact ho
    have hne := hroom hn hg (isVal_iff.mpr ⟨v, hv⟩)
    exact inv_start h hb (hamt v hv) (by omega)
  · exact inv_setStage h hb (by simp) (by simp)
  · exact endSession_setStage s _ ▸ inv_endSession h hb
  · exact inv_endSession h hb
  · exact h

end Booted

/-- A classified record set keeps the invariant: an abort has a cause, and a start event has room for its increment. -/
theorem inv_classify {s : State} (h : s.Inv) (hb : s.booted = true) (r : RecordSet) : (classify s r).Inv := by
  rcases classify_cases s r with ⟨c, hc, e⟩ | ⟨hnone, x, rfl, e⟩ <;> rw [e]
  · exact inv_abort h (abortCause_ne_none hc)
  · obtain ⟨-, -, hroom⟩ := abortCause_eq_none.mp hnone
    refine inv_respond (inv_rxTransitions (inv_rxSeed h hb r) (by simpa using hb) (fun v hv => ?_) ?_) _
    · rw [rxSeed_cfg]
      exact fieldUint_lt (amtField_eq_val hv).2
    · rwa [rxSeed_stage, rxSeed_opCounter, rxSeed_cfg]

theorem inv_of_classified {s t : State} (h : s.Inv) (ht : Classified s t) : t.Inv := by
  obtain ⟨-, hb, r, -, rfl⟩ := ht
  exact inv_classify h hb r

/-- Every instruction keeps the invariant, whatever its operands. -/
theorem exec_inv {i : Instr} {s t : State} (h : s.Inv) (hx : exec i s = .next t) : t.Inv := by
  cases exec_cases hx with
  | reset _ ht => exact ht ▸ inv_respond (inv_resetRegisters h) _
  | quiet _ hq => exact inv_of_quiet h hq
  | checksum o c _ _ ht => exact ht ▸ inv_respond (inv_setCrc h c) o
  | boot now _ _ _ ht => exact ht ▸ inv_respond (inv_boot h now) _
  | tick now _ _ hb ht => exact ht ▸ inv_respond (inv_setLastIdl h hb now) _
  | message _ ht => exact inv_of_classified h ht

/-- Settles O54: a step waits, runs an instruction (`exec_inv`), or meets a word that is no row, which answers or is
classified; taking the request off the queue touches no clause. -/
theorem stepKeepsTheInvariant : Obligations.StepKeepsTheInvariant := by
  unfold Obligations.StepKeepsTheInvariant
  intro s t h hstep
  rcases step_cases hstep with ⟨-, rfl⟩ | ⟨q, rest, -, ⟨i, -, hx⟩ | ⟨e, -, rfl⟩⟩
  · exact h
  · exact exec_inv (s := { s with pending := rest }) h hx
  · rcases unassigned_cases e q.ports { s with pending := rest } with hq | hc
    · exact inv_of_quiet (s := { s with pending := rest }) h hq
    · exact inv_of_classified (s := { s with pending := rest }) h hc

/-! ### The operation counter -/

/-- A message to a seeded block seeds nothing: only a start event moves the counter (43_handshake R125, R126). -/
theorem classify_counter {s : State} (hs : s.opSeeded = true) (r : RecordSet) :
    (classify s r).opSeeded = true ∧ ((classify s r).opCounter = s.opCounter ∨
      ((classify s r).opCounter = s.opCounter + 1 ∧ s.stage = .idle ∧ (classify s r).stage = .started)) := by
  have hseed : rxSeed (opnField s r) s = s := by rw [opnField_of_seeded hs]; rfl
  rcases classify_cases s r with ⟨c, -, e⟩ | ⟨-, x, rfl, e⟩ <;> rw [e]
  · exact ⟨hs, .inl rfl⟩
  · rw [hseed]
    rcases rxTransitions_cases (recGet r .messageName) (amtField s r) s with
      ⟨v, ⟨-, hg, -⟩, e⟩ | ⟨-, e⟩ | ⟨-, e⟩ | ⟨-, e⟩ | ⟨-, e⟩ <;> rw [e]
    · exact ⟨rfl, .inr ⟨rfl, hg, rfl⟩⟩
    all_goals exact ⟨hs, .inl rfl⟩

/-- Settles O56: of the cases of `exec_cases` that are not RESET only a message writes the counter. -/
theorem operationCounterNeverDecreases : Obligations.OperationCounterNeverDecreases := by
  unfold Obligations.OperationCounterNeverDecreases
  intro i s t h hreset hs
  cases exec_cases h with
  | reset hi => exact absurd hi hreset
  | quiet _ hq => obtain ⟨o, rfl, -⟩ := hq; exact ⟨hs, .inl rfl⟩
  | checksum _ _ _ _ ht => subst ht; exact ⟨hs, .inl rfl⟩
  | boot _ _ _ _ ht => subst ht; exact ⟨hs, .inl rfl⟩
  | tick _ _ _ _ ht => subst ht; exact ⟨hs, .inl rfl⟩
  | message _ ht =>
    obtain ⟨-, -, r, -, rfl⟩ := ht
    exact classify_counter hs r

/-! ### The stage -/

/-- A message moves the stage by one of the three transitions, under a handshake name, or not at all
(43_handshake R126 to R129). -/
theorem classify_stage {s : State} (hfin : s.stage ≠ .finalized) (r : RecordSet) :
    (classify s r).stage = s.stage ∨ (isHandshakeName (recGet r .messageName) = true ∧
      ((s.stage = .idle ∧ (classify s r).stage = .started) ∨ (s.stage = .started ∧ (classify s r).stage = .reserved) ∨
        (s.stage = .reserved ∧ (classify s r).stage = .idle))) := by
  rcases classify_cases s r with ⟨c, -, e⟩ | ⟨-, x, rfl, e⟩ <;> rw [e]
  · exact .inl rfl
  · rcases rxTransitions_cases (recGet r .messageName) (amtField s r) (rxSeed (opnField s r) s) with
      ⟨v, ⟨hn, hg, -⟩, e⟩ | ⟨⟨hn, hg, -⟩, e⟩ | ⟨⟨hn, hg, -⟩, e⟩ | ⟨hg, -⟩ | ⟨-, e⟩
    · rw [e, hn]; rw [rxSeed_stage] at hg; exact .inr ⟨by decide, .inl ⟨hg, rfl⟩⟩
    · rw [e, hn]; rw [rxSeed_stage] at hg; exact .inr ⟨by decide, .inr (.inl ⟨hg, rfl⟩)⟩
    · rw [e, hn]; rw [rxSeed_stage] at hg; exact .inr ⟨by decide, .inr (.inr ⟨hg, rfl⟩)⟩
    · exact absurd ((rxSeed_stage ..).symm.trans hg) hfin
    · rw [e]; exact .inl (rxSeed_stage ..)

/-- "IDL" is compared with nothing, so MSG.IDL leaves the stage alone. -/
theorem exec_msgIdl_stage {s t : State} {r : RecordSet} (hfin : s.stage ≠ .finalized)
    (h : exec (.msgIdl r) s = .next t) : t.stage = s.stage := by
  obtain rfl : messageArrives nameIDL r s = t := Host.Outcome.next.inj h
  rcases messageArrives_cases nameIDL r s with ⟨-, e⟩ | ⟨-, -, e⟩ | ⟨-, -, ⟨-, e⟩ | ⟨-, e⟩⟩ <;> rw [e]
  · rfl
  · rfl
  · rfl
  · refine (classify_stage hfin _).resolve_right fun ⟨hn, _⟩ => ?_
    rw [recGet_recSet_self] at hn
    exact absurd hn (by decide)

/-- Settles O57: of the cases of `exec_cases` RESET and a message write the stage, and MSG.IDL does not. -/
theorem stageWritesAreListed : Obligations.StageWritesAreListed := by
  unfold Obligations.StageWritesAreListed
  intro i s t h hfin hne
  cases exec_cases h with
  | reset hi ht => subst ht; exact .inl ⟨hi, rfl⟩
  | quiet _ hq => obtain ⟨o, rfl, -⟩ := hq; exact absurd rfl hne
  | checksum _ _ _ _ ht => subst ht; exact absurd rfl hne
  | boot _ _ _ _ ht => subst ht; exact absurd rfl hne
  | tick _ _ _ _ ht => subst ht; exact absurd rfl hne
  | message hi ht =>
    obtain ⟨-, -, r, -, rfl⟩ := ht
    obtain ⟨-, hmoves⟩ := (classify_stage hfin r).resolve_left hne
    refine .inr ⟨?_, hmoves⟩
    rcases hi with hrx | ⟨r', hsta | hvrp | hfin' | hidl⟩
    · exact .inl hrx
    · exact .inr ⟨r', .inl hsta⟩
    · exact .inr ⟨r', .inr (.inl hvrp)⟩
    · exact .inr ⟨r', .inr (.inr hfin')⟩
    · subst hidl
      exact absurd (exec_msgIdl_stage hfin h) hne

end Sys2Proof.Machine
end

section
/-!
The statements of the family other, eighth part: the frames the block emits, and the statuses it answers.
-/

namespace Sys2Proof.Machine

/-! ### Well-formed frames -/

/-- A frame whose length field does not overflow is well formed; its residue is O15's. -/
theorem frameOk_framePayload {p : Bytes} (h2 : 2 ≤ p.length) (hmax : p.length ≤ 65533) : FrameOk (framePayload p) := by
  have hcount : (framePayload p).length - 5 = 2 + p.length := by rw [framePayload_length]; omega
  refine ⟨by rw [framePayload_length]; omega, by rw [framePayload_length]; omega, rfl, ?_, rfl,
    crcResidueIsZero (frameHead p)⟩
  rw [hcount]
  rfl

theorem recSet_length_le (r : RecordSet) (k : TlvKey) (v : Bytes) : (recSet r k v).length ≤ r.length + 1 := by
  induction r with
  | nil => simp [recSet]
  | cons e r ih =>
    rw [recSet]
    split_ifs <;> simp only [List.length_cons] <;> omega

/-- With at most 254 records, each of at most 257 bytes, the payload fits its length field. -/
theorem namedPayload_length_le {m : KeyMap} (hm : KeyMap.Valid m) {name : Bytes} (hname : name.length ≤ 255)
    {r : RecordSet} (hr : RecordSet.Ok r) (hk : RecordSet.Known m r) (hcount : r.length ≤ 253) :
    (namedPayload m name r).length ≤ 65533 := by
  have hok := recSet_ok hr .messageName hname
  rw [namedPayload, tlvEncode_length hm hok (recSet_known hk (named_key_known hm).1)]
  have hsum := List.sum_le_card_nsmul ((recSet r .messageName name).map fun e => 2 + e.2.length) 257 fun n hn => by
    obtain ⟨e, he, rfl⟩ := List.mem_map.mp hn
    have := hok.2 e he
    omega
  have := recSet_length_le r .messageName name
  rw [List.length_map, smul_eq_mul] at hsum
  omega

theorem frameOk_frameOf {m : KeyMap} (hm : KeyMap.Valid m) {name : Bytes} (hname : name.length ≤ 255)
    {r : RecordSet} (hr : RecordSet.Ok r) (hk : RecordSet.Known m r) (hcount : r.length ≤ 253) :
    FrameOk (frameOf m name r) :=
  frameOk_framePayload (two_le_namedPayload_length hm hname hr hk) (namedPayload_length_le hm hname hr hk hcount)

/-! ### The messages of the block -/

section Messages

variable {s : State} (hc : s.cfg.Valid) (ho : s.opCounter < 10 ^ 255)
include hc ho

theorem frameOk_msgIDL : FrameOk (msgIDL s) := by
  have hm := config_keymap_valid hc
  rw [msgIDL_of_fits ho]
  exact frameOk_frameOf hm (by decide) ⟨by simp, by simpa using dec_fits ho⟩ (by simpa using (named_key_known hm).2.1)
    (by simp)

theorem frameOk_amountMessage (ha : s.pendingAmount < 10 ^ 255) {name : Bytes} (hname : name.length ≤ 255) :
    FrameOk (frameOf s.cfg.keymap name [(.operationNumber, dec s.opCounter), (.amount, dec s.pendingAmount)]) := by
  have hm := config_keymap_valid hc
  obtain ⟨-, hopn, hamt⟩ := named_key_known hm
  have hr : RecordSet.Ok [(.operationNumber, dec s.opCounter), (.amount, dec s.pendingAmount)] :=
    ⟨by simp [TlvKey.ordinal], by simpa using ⟨dec_fits ho, dec_fits ha⟩⟩
  have hk : RecordSet.Known s.cfg.keymap [(.operationNumber, dec s.opCounter), (.amount, dec s.pendingAmount)] := by
    intro e he
    rcases List.mem_pair.mp he with rfl | rfl
    · exact hopn
    · exact hamt
  exact frameOk_frameOf hm hname hr hk (by simp)

theorem frameOk_msgVRP (ha : s.pendingAmount < 10 ^ 255) : FrameOk (msgVRP s) :=
  msgVRP_of_fits ho ha ▸ frameOk_amountMessage hc ho ha (by decide)

theorem frameOk_msgFIN (ha : s.pendingAmount < 10 ^ 255) : FrameOk (msgFIN s) :=
  msgFIN_of_fits ho ha ▸ frameOk_amountMessage hc ho ha (by decide)

end Messages

/-! ### The transmit list -/

/-- At most one frame, and well formed where the counter left behind has at most 255 digits (log entry 17). -/
def SendsWellFormed (t : State) (tx : List Bytes) : Prop :=
  tx.length ≤ 1 ∧ (t.opCounter < 10 ^ 255 → ∀ f ∈ tx, FrameOk f)

theorem sendsWellFormed_nil (t : State) : SendsWellFormed t [] := ⟨by simp, by simp⟩

theorem sendsWellFormed_singleton {t : State} {f : Bytes} (h : t.opCounter < 10 ^ 255 → FrameOk f) :
    SendsWellFormed t [f] :=
  ⟨by simp, fun ht => by simpa using h ht⟩

/-- The amount of a VRP or FIN message was read from a value of at most 255 bytes, so it has a record. -/
theorem sendsWellFormed_rxTransitions {name : Option Bytes} {amt : Field} {s : State} (hc : s.cfg.Valid)
    (hamt : ∀ v, amt = .val v → v < 10 ^ 255) :
    SendsWellFormed (rxTransitions name amt s).st (rxTransitions name amt s).tx := by
  rcases rxTransitions_cases name amt s with ⟨v, ⟨-, -, hv⟩, e⟩ | ⟨⟨-, -, hv⟩, e⟩ | ⟨-, e⟩ | ⟨-, e⟩ | ⟨-, e⟩ <;> rw [e]
  · exact sendsWellFormed_singleton fun ho => frameOk_msgVRP (s := s.start v) hc ho (hamt v hv)
  · exact sendsWellFormed_singleton fun ho => frameOk_msgFIN (s := s.setStage .reserved) hc ho (hamt _ hv)
  · exact sendsWellFormed_singleton fun ho => frameOk_msgIDL (s := s.setStage .finalized) hc ho
  · exact sendsWellFormed_singleton fun ho => frameOk_msgIDL (s := s) hc ho
  · exact sendsWellFormed_nil _

theorem sendsWellFormed_of_classified {s t : State} {o : Response} (hc : s.cfg.Valid) (ht : Classified s t)
    (hres : t.response = some o) : SendsWellFormed t o.tx := by
  obtain ⟨-, -, r, hfits, rfl⟩ := ht
  rcases classify_cases s r with ⟨c, -, e⟩ | ⟨-, x, rfl, e⟩ <;> rw [e] at hres ⊢ <;> cases hres
  · exact sendsWellFormed_nil _
  · exact sendsWellFormed_rxTransitions (by simpa using hc) fun v hv =>
      fieldUint_lt_of_fits hfits (amtField_eq_val hv).2

/-- Of the cases of `exec_cases` HS.BOOT, HS.TICK and a message send (20_memory R53). -/
theorem exec_sendsWellFormed {i : Instr} {s t : State} {o : Response} (hc : s.cfg.Valid) (h : exec i s = .next t)
    (hres : t.response = some o) : SendsWellFormed t o.tx := by
  cases exec_cases h with
  | reset _ ht => subst ht; cases hres; exact sendsWellFormed_nil _
  | quiet _ hq =>
    obtain ⟨o', rfl, htx, -⟩ := hq
    cases hres
    exact htx ▸ sendsWellFormed_nil _
  | checksum o' c _ htx ht =>
    subst ht
    cases hres
    exact htx ▸ sendsWellFormed_nil _
  | boot now _ _ _ ht =>
    subst ht
    cases hres
    exact sendsWellFormed_singleton fun ho => frameOk_msgIDL (s := s.boot _) hc ho
  | tick now _ _ _ ht =>
    subst ht
    cases hres
    exact sendsWellFormed_singleton fun ho => frameOk_msgIDL (s := s.setLastIdl _) hc ho
  | message _ ht => exact sendsWellFormed_of_classified hc ht hres

/-- 847 bits hold no number of more than 255 digits (log entry 17). -/
theorem two_pow_le_of_le_847 {w : Nat} (hw : w ≤ 847) : 2 ^ w ≤ 10 ^ 255 :=
  calc 2 ^ w ≤ 2 ^ (121 * 7) := Nat.pow_le_pow_right (by decide) hw
    _ = (2 ^ 121) ^ 7 := pow_mul ..
    _ ≤ 10 ^ 255 := by norm_num

/-- Settles O58: `exec_sendsWellFormed`; the counter's bound is its width, which the next state keeps by `exec_inv`. -/
theorem emittedFramesAreWellFormed : Obligations.EmittedFramesAreWellFormed := by
  unfold Obligations.EmittedFramesAreWellFormed
  intro i s t o hinv h hres
  obtain ⟨hone, hframes⟩ := exec_sendsWellFormed hinv.1 h hres
  refine ⟨hone, hframes, fun hw => ?_⟩
  obtain ⟨-, -, -, -, -, -, -, ho, -⟩ := exec_inv hinv h
  rw [(exec_cfg_pending h).1] at ho
  exact ho.trans_le (two_pow_le_of_le_847 hw)

/-! ### The status matrix (60_exceptions R151) -/

/-- A response with a status of the list, where a status of one mode or policy comes only in that mode or policy. -/
def Answers (c : Config) (l : List Status) (t : State) : Prop :=
  ∃ o, t.response = some o ∧ o.status ∈ l ∧
    (o.status = .badLength ∨ o.status = .checksumMismatch → c.rxCrcCheck = .on) ∧
    (o.status = .ignoredNoAmount ∨ o.status = .ignoredBadValue → c.badFieldPolicy = .ignore)

/-- The statuses that depend on neither the mode nor the policy. -/
def Status.plain (st : Status) : Bool :=
  st ∉ [Status.badLength, .checksumMismatch, .ignoredNoAmount, .ignoredBadValue]

section Answers

variable {c : Config} {l : List Status} {s : State}

theorem answers_respond {o : Response} (hplain : o.status.plain = true) (hmem : o.status ∈ l) :
    Answers c l (s.respond o) := by
  refine ⟨o, rfl, hmem, ?_, ?_⟩ <;> rintro (h | h) <;> rw [h] at hplain <;> simp [Status.plain] at hplain

theorem answers_raise {st : Status} (hplain : st.plain = true) (hmem : st ∈ l) : Answers c l (s.raise st) :=
  answers_respond hplain hmem

theorem answers_unlessFaulted {rest : State} (hf : Status.faulted ∈ l) (h : Answers c l rest) :
    Answers c l (unlessFaulted s rest) := by
  rcases unlessFaulted_cases s rest with ⟨-, e⟩ | ⟨-, e⟩ <;> rw [e]
  · exact answers_raise rfl hf
  · exact h

theorem answers_whenBooted {rest : State} (hf : Status.faulted ∈ l) (hb : Status.notBooted ∈ l) (h : Answers c l rest) :
    Answers c l (whenBooted s rest) := by
  rcases whenBooted_cases s rest with ⟨-, e⟩ | ⟨-, -, e⟩ | ⟨-, -, e⟩ <;> rw [e]
  · exact answers_raise rfl hf
  · exact answers_raise rfl hb
  · exact h

/-- Only hardened mode rejects by length field or CRC (42_frame R113). -/
theorem answers_rejection {buf : Bytes} {st : Status} (hl : rejections ⊆ l) (hd : frameDecode c buf = .error st) :
    Answers c l (s.raise st) := by
  rcases frameDecode_cases c buf with ⟨st', hst, he⟩ | ⟨p, he⟩
  · cases hd.symm.trans he
    refine ⟨_, rfl, hl hst, hardened_of_rejection hd, ?_⟩
    rintro (rfl | rfl) <;> simp at hst
  · cases hd.symm.trans he

theorem answers_bufferArrives (hf : Status.faulted ∈ l) (hok : Status.ok ∈ l) (hl : rejections ⊆ l) (buf : Bytes) :
    Answers s.cfg l (bufferArrives buf s) := by
  refine answers_unlessFaulted hf ?_
  cases hd : frameDecode s.cfg buf with
  | error st => exact answers_rejection hl hd
  | ok r => exact answers_respond rfl hok

theorem rxStatus_mem (name : Option Bytes) (opn amt : Field) :
    rxStatus name opn amt ∈ [Status.ok, .ignoredNoAmount, .ignoredBadValue] := by
  unfold rxStatus
  split_ifs <;> simp

/-- An abort, or the status of 43_handshake R123 lines 8 to 11, which only policy `ignore` lets be other than OK. -/
theorem answers_classify (hl : [Status.ok, .aborted, .ignoredNoAmount, .ignoredBadValue] ⊆ l) (r : RecordSet) :
    Answers s.cfg l (classify s r) := by
  rcases classify_cases s r with ⟨cause, -, e⟩ | ⟨hnone, x, -, e⟩ <;> rw [e]
  · exact ⟨_, rfl, hl (by simp), by simp, by simp⟩
  · have hmem := rxStatus_mem (recGet r .messageName) (opnField s r) (amtField s r)
    have hsub : [Status.ok, .ignoredNoAmount, .ignoredBadValue] ⊆
        [Status.ok, .aborted, .ignoredNoAmount, .ignoredBadValue] := by simp
    refine ⟨_, rfl, hl (hsub hmem), fun h => ?_, fun h => ignore_of_rxStatus hnone fun hok => ?_⟩
    · rcases h with h | h <;> simp [show rxStatus _ _ _ = _ from h] at hmem
    · simp [hok] at h

theorem answers_messageArrives (name : Bytes) (r : RecordSet)
    (hl : [Status.ok, .faulted, .notBooted, .valueTooLong, .aborted, .ignoredNoAmount, .ignoredBadValue] ⊆ l) :
    Answers s.cfg l (messageArrives name r s) := by
  refine answers_whenBooted (hl (by simp)) (hl (by simp)) ?_
  split_ifs
  · exact answers_raise rfl (hl (by simp))
  · exact answers_classify (fun _ h => hl (by simp at h ⊢; tauto)) _

end Answers

/-- Every instruction answers, with a status of its own row. -/
theorem exec_answers (i : Instr) (s : State) : ∃ t, exec i s = .next t ∧ Answers s.cfg (statusesOf i) t := by
  cases i
  case reset => exact ⟨_, rfl, answers_respond rfl (by simp [statusesOf])⟩
  case hsStatus => exact ⟨_, rfl, answers_respond rfl (by simp [statusesOf])⟩
  case crcInit | crcUpdate b | crcRead | crcCompute bs | tlvDec p | keyMessageName rest | keyOperationNumber rest |
      keyAmount rest | keyKeepaliveInterval rest | keyQrPayload rest =>
    exact ⟨_, rfl, answers_unlessFaulted (by simp [statusesOf]) (answers_respond rfl (by simp [statusesOf]))⟩
  case tlvEnc r =>
    refine ⟨_, rfl, answers_unlessFaulted (by simp [statusesOf]) ?_⟩
    split_ifs
    · exact answers_raise rfl (by simp [statusesOf])
    · exact answers_respond rfl (by simp [statusesOf])
  case frmEnc name r =>
    refine ⟨_, rfl, answers_unlessFaulted (by simp [statusesOf]) ?_⟩
    split_ifs
    · exact answers_raise rfl (by simp [statusesOf])
    · exact answers_raise rfl (by simp [statusesOf])
    · exact answers_raise rfl (by simp [statusesOf])
    · exact answers_respond rfl (by simp [statusesOf])
  case frmDec buf | frameHdr len rest =>
    exact ⟨_, rfl, answers_bufferArrives (by simp [statusesOf]) (by simp [statusesOf]) (by simp [statusesOf]) _⟩
  case hsBoot now =>
    refine ⟨_, rfl, answers_unlessFaulted (by simp [statusesOf]) ?_⟩
    split_ifs
    · exact answers_raise rfl (by simp [statusesOf])
    · exact answers_respond rfl (by simp [statusesOf])
  case hsTick now =>
    refine ⟨_, rfl, answers_whenBooted (by simp [statusesOf]) (by simp [statusesOf]) ?_⟩
    split_ifs
    · exact answers_respond rfl (by simp [statusesOf])
    · exact answers_respond rfl (by simp [statusesOf])
  case hsRx buf =>
    refine ⟨_, rfl, answers_whenBooted (by simp [statusesOf]) (by simp [statusesOf]) ?_⟩
    cases hd : frameDecode s.cfg buf with
    | error st => exact answers_rejection (List.subset_append_right ..) hd
    | ok r => exact answers_classify (by simp [statusesOf]) r
  case msgSta r | msgVrp r | msgFin r | msgIdl r =>
    exact ⟨_, rfl, answers_messageArrives _ r (by simp [statusesOf])⟩

/-- Settles O59: `exec_answers` for instructions; a step waits, runs an instruction, or answers a word that is no
row. -/
theorem everyOperationCompletes : Obligations.EveryOperationCompletes := by
  unfold Obligations.EveryOperationCompletes
  refine ⟨fun i s => ?_, fun s => ?_⟩
  · obtain ⟨t, h, o, ho⟩ := exec_answers i s
    exact ⟨t, o, h, ho⟩
  · cases hp : s.pending with
    | nil => exact ⟨s, step_of_waiting hp⟩
    | cons q rest =>
      rw [step_of_pending hp]
      cases hd : decode q with
      | ok i =>
        rw [perform_of_ok hd]
        exact (exec_answers i _).imp fun _ h => h.1
      | error e => exact ⟨_, perform_of_error hd _⟩

end Sys2Proof.Machine
end
